-- ==== Sys2Proof/Word.lean ====
section
/-! DEFINITION. The word and byte types of the TaC CPU (00_scope R2: 16-bit data and addresses, an 8-bit form). -/

namespace Sys2Proof

/-- A 16-bit datum or address (00_scope R2). -/
abbrev Word := BitVec 16

/-- An 8-bit datum (00_scope R2: the 8-bit form; 20_memory R59). -/
abbrev Byte := BitVec 8

end Sys2Proof
end

