-- ==== Sys2Proof/Machine/State.lean ====
section
/-! DEFINITION. The state of the machine: every piece of state spec/ gives the TaC CPU, as plain data, with the
reasons a step can stop and the state after reset. INVENTORY.md, heading State, lists the fields with their rules. -/

namespace Sys2Proof.Machine

/-- The sixteen registers but PC and FLAG, each under its own name (10_state R20). SSP and USP are both here:
which of them SP names is decided by P (10_state R23). -/
structure Regs where
  g0 : Word
  g1 : Word
  g2 : Word
  g3 : Word
  g4 : Word
  g5 : Word
  g6 : Word
  g7 : Word
  g8 : Word
  g9 : Word
  g10 : Word
  g11 : Word
  fp : Word
  ssp : Word
  usp : Word
deriving DecidableEq, Repr, Inhabited

/-- FLAG (10_state R29): its seven storage bits. Bits 15:8 and bit 4 are always 0 and are put in where FLAG is
read as a word (`Flags.toWord`). -/
structure Flags where
  /-- interrupt enable (10_state R30) -/
  e : Bool
  /-- privileged mode (10_state R31) -/
  p : Bool
  /-- I/O privileged mode (10_state R32) -/
  i : Bool
  /-- overflow (10_state R33) -/
  v : Bool
  /-- carry (10_state R33) -/
  c : Bool
  /-- sign (10_state R33) -/
  s : Bool
  /-- zero (10_state R33) -/
  z : Bool
deriving DecidableEq, Repr, Inhabited

/-- The four condition flags, as an instruction computes them (10_state R33). -/
structure Cond where
  v : Bool
  c : Bool
  s : Bool
  z : Bool
deriving DecidableEq, Repr, Inhabited

/-- A pair of bits T (transmitter) and R (receiver), of a `*-Ctrl` or `*-Stat` port (60_exceptions R225). -/
structure SerialBits where
  t : Bool
  r : Bool
deriving DecidableEq, Repr, Inhabited

/-- uSD-Stat (60_exceptions R228). -/
structure UsdStat where
  idle : Bool
  error : Bool
deriving DecidableEq, Repr, Inhabited

/-- What the CPU can read of the devices (60_exceptions R222-R233): held here, and supplied anew by the Device
oracle at every instruction boundary (92_eei_decisions D32; log 24). -/
structure Inputs where
  timer0Value : Word
  timer0Flag : Word
  timer1Value : Word
  timer1Flag : Word
  ft232rlData : Byte
  ft232rlStat : SerialBits
  tecData : Byte
  tecStat : SerialBits
  usdStat : UsdStat
  extIn : Byte
  adc0 : Byte
  adc1 : Byte
  adc2 : Byte
  adc3 : Byte
  rn4020Data : Byte
  rn4020Stat : SerialBits
  dataSw : Word
  consoleAddr : Word
  rotary : BitVec 5
  func : BitVec 4
deriving DecidableEq, Repr, Inhabited

/-- What the CPU writes to the devices (60_exceptions R222-R233): the last value of each output register. -/
structure Outputs where
  timer0Period : Word
  timer0Ctrl : Word
  timer1Period : Word
  timer1Ctrl : Word
  ft232rlTx : Byte
  ft232rlCtrl : SerialBits
  tecTx : Byte
  tecCtrl : SerialBits
  /-- E I R W, bit 3 to bit 0 (60_exceptions R228) -/
  usdCtrl : BitVec 4
  usdMemAddr : Word
  usdBlkAddrH : Word
  usdBlkAddrL : Word
  extOut : Byte
  adcRef : Byte
  /-- M of the extension port Hi (60_exceptions R230) -/
  extHiOutput : Bool
  /-- VVVV of the extension port Hi (60_exceptions R230) -/
  extHiValue : BitVec 4
  rn4020Tx : Byte
  rn4020Ctrl : SerialBits
  /-- F H C S, bit 3 to bit 0 (60_exceptions R226) -/
  rn4020Cmd : BitVec 4
  /-- the MODEL's own: an OUT has written RN4020-Cmd (95_test_vectors 2.12 "before any `OUT` to it"; log 28) -/
  rn4020CmdWritten : Bool
  consoleData : Word
deriving DecidableEq, Repr, Inhabited

/-- A block transfer of the uSD controller in flight (60_exceptions R229, 10_state R39). -/
structure UsdTransfer where
  /-- READ: from the card into memory -/
  toMemory : Bool
  memAddr : Word
  blkAddr : BitVec 32
deriving DecidableEq, Repr, Inhabited

/-- One write to the I/O space, as 20_memory R61 asks it be recorded (the MODEL's own record; log 38). -/
structure IoEvent where
  addr : Byte
  /-- 8-bit access (mode 7), else 16-bit -/
  byte : Bool
  value : Word
deriving DecidableEq, Repr, Inhabited

/-- Memory: the bytes that something has written, as (address, byte) pairs in strictly rising order of address. An
address that is not listed has no written value. -/
abbrev Memory := List Host.Cell

/-- The state of the machine. -/
structure State where
  regs : Regs
  /-- PC (10_state R26) -/
  pc : Word
  /-- FLAG (10_state R29) -/
  flag : Flags
  /-- the memory space (20_memory R50, R52) -/
  mem : Memory
  /-- MMU_EN (10_state R38) -/
  mmuEn : Bool
  /-- MMU_BASE (10_state R38) -/
  mmuBase : Word
  /-- MMU_LIMIT (10_state R38) -/
  mmuLimit : Word
  /-- the ten device interrupt requests; bit n is vector n (10_state R39, 60_exceptions R205) -/
  pending : BitVec 10
  /-- set by HALT (10_state R39, 47_system R195) -/
  halted : Bool
  /-- the mode register MMM (60_exceptions R232) -/
  mode : BitVec 3
  /-- the device registers the CPU reads -/
  inp : Inputs
  /-- the device registers the CPU writes -/
  out : Outputs
  /-- the uSD transfer in flight (60_exceptions R229) -/
  usd : Option UsdTransfer
  /-- the MODEL's own: the I/O writes made so far, newest first (20_memory R61; log 38) -/
  ioLog : List IoEvent
  /-- the MODEL's own: the number of the next free value (log 37) -/
  tick : Nat
deriving DecidableEq, Repr, Inhabited

/-- The faults a run can end in: none. Every exception of 60_exceptions R201 is taken through its vector
(60_exceptions R208), which is a next state, so no step answers a fault. -/
inductive Fault where
deriving DecidableEq, Repr

/-- The forms spec/ gives no meaning, which it says the model must refuse (00_scope section 6, `refuse`). Every one is
SAFE: the model stops where the hardware would do something the spec does not give. -/
inductive Refusal where
  /-- An instruction this model gives no meaning. Raised by no arm of `exec`. Safe. -/
  | notModelled (mnemonic : String)
  /-- A field drawn 0h is not zero. Raised by the fetch (30_encoding R100). Safe. -/
  | mustBeZero
  /-- A jump with the condition field Dh. Raised by the fetch (30_encoding R101). Safe. -/
  | blankCondition
  /-- MULL or DIVL with an Rd outside G0, G2, G4, G6, G8, G10. Raised by the fetch and by MULL and DIVL
  (30_encoding R102). Safe. -/
  | registerPair
  /-- The register number Fh (PC) in a register field. Raised by the fetch (10_state R25). Safe. -/
  | pcOperand
  /-- PUSH or POP of the stack pointer it uses. Raised by the fetch, PUSH and POP (46_stack_return R186, R187). Safe. -/
  | stackPointerOperand
  /-- IN or OUT at an address above 00FFh, or 16 bits wide at an odd address, where IO_ADDR_HIGH is the default. Raised by
  IN and OUT (45_io R182). Safe. -/
  | ioAddress
  /-- A write to a byte that is not Writable. Raised by ST, PUSH, CALL and trap entry (20_memory R61,
  92_eei_decisions D25). Safe. -/
  | romWrite
  /-- A fault during trap entry. Raised by every trap entry (60_exceptions R213). Safe. -/
  | trapEntryFault
deriving DecidableEq, Repr

/-- The outcome of one instruction or step. -/
abbrev Result := Host.Outcome State Fault Refusal

/-- The registers at reset: the spec gives none a value (10_state R40). DESIGN CHOICE, unsafe, log 21. -/
def Regs.reset : Regs :=
  { g0 := 0, g1 := 0, g2 := 0, g3 := 0, g4 := 0, g5 := 0, g6 := 0, g7 := 0, g8 := 0, g9 := 0, g10 := 0, g11 := 0,
    fp := 0, ssp := 0, usp := 0 }

/-- RESET_FLAG, the spec's default 0040h: P alone (70_reset_and_hazards R250). DESIGN CHOICE (the default of an open
parameter), unsafe, log 20. -/
def Flags.reset : Flags := { e := false, p := true, i := false, v := false, c := false, s := false, z := false }

/-- The input ports at reset: the spec gives none a value. DESIGN CHOICE, unsafe, log 22. -/
def Inputs.reset : Inputs :=
  { timer0Value := 0, timer0Flag := 0, timer1Value := 0, timer1Flag := 0,
    ft232rlData := 0, ft232rlStat := ⟨false, false⟩, tecData := 0, tecStat := ⟨false, false⟩,
    usdStat := ⟨false, false⟩, extIn := 0, adc0 := 0, adc1 := 0, adc2 := 0, adc3 := 0,
    rn4020Data := 0, rn4020Stat := ⟨false, false⟩, dataSw := 0, consoleAddr := 0, rotary := 0, func := 0 }

/-- The output registers at reset. RN4020-Cmd is 0001 by the source (10_state R40, 60_exceptions R226); the others are a
DESIGN CHOICE, unsafe, log 22. -/
def Outputs.reset : Outputs :=
  { timer0Period := 0, timer0Ctrl := 0, timer1Period := 0, timer1Ctrl := 0,
    ft232rlTx := 0, ft232rlCtrl := ⟨false, false⟩, tecTx := 0, tecCtrl := ⟨false, false⟩,
    usdCtrl := 0, usdMemAddr := 0, usdBlkAddrH := 0, usdBlkAddrL := 0, extOut := 0, adcRef := 0,
    extHiOutput := false, extHiValue := 0, rn4020Tx := 0, rn4020Ctrl := ⟨false, false⟩,
    rn4020Cmd := 0b0001#4, rn4020CmdWritten := false, consoleData := 0 }

/-- The machine right after reset (70_reset_and_hazards R250, 10_state R40). -/
def State.reset : State :=
  { regs := Regs.reset, pc := 0xF000#16, flag := Flags.reset, mem := [],
    mmuEn := false, mmuBase := 0, mmuLimit := 0, pending := 0, halted := false,
    mode := 0b001#3, inp := Inputs.reset, out := Outputs.reset, usd := none, ioLog := [], tick := 0 }

end Sys2Proof.Machine
end

