-- ==== Sys2Proof/Config.lean ====
section
/-! DEFINITION. The parameters spec/ leaves open (00_scope section 5, 92_eei_decisions) and the free values. Each is an
opaque constant: no proof can see a value of it, so a claim holds whatever it is. The values that the spec does fix
(the fixed points of 42_muldiv R141-R144 and so on) are put around them where they are used. -/

namespace Sys2Proof

open Sys2Proof.Machine (Flags Cond Inputs UsdTransfer)

/-- The kinds of memory access (20_memory R59, R62; 00_scope section 6). -/
inductive AccessKind where
  | fetch
  | read
  | write
  /-- a push of trap entry (60_exceptions R208) -/
  | trapPush
  /-- the read of a vector (60_exceptions R207) -/
  | vectorFetch
deriving DecidableEq, Repr, Inhabited

/-- What the MMU answers: the physical address the access names, and whether it is permitted. For a rejected access
`phys` is the place a store would have touched, if it touched any (60_exceptions R202). -/
structure Translation where
  phys : Word
  permitted : Bool
deriving DecidableEq, Repr, Inhabited

/-- The four shifts (43_shift R150). -/
inductive ShiftOp where
  | shla | shll | shra | shrl
deriving DecidableEq, Repr, Inhabited

/-- BYTE_LOAD_EXT (92_eei_decisions D10). -/
inductive ByteExt where
  | zero | sign
deriving DecidableEq, Repr, Inhabited

/-- The instructions whose place in PRIV_SET is open (47_system R196, 92_eei_decisions D16). -/
inductive PrivOp where
  | ei | di | halt | inp | out
deriving DecidableEq, Repr, Inhabited

/-- What IN or OUT comes to at an address that 45_io R182 rejects. The spec names `refuse` alone, the default; the other
two values are what a machine could do besides (DESIGN CHOICE, log 16). -/
inductive IoTarget where
  /-- the access is made at this address of the I/O space -/
  | port (a : Byte)
  /-- InvalidAddress -/
  | raises
  /-- the spec's default -/
  | refuse
deriving DecidableEq, Repr, Inhabited

/-- FlagDraw (92_eei_decisions D7): the condition flags an instruction leaves undefined. Free, log 1. -/
opaque Config.flagDraw : Nat → Cond

/-- DivSem.quot outside its fixed range (42_muldiv R146). Free, log 2. -/
opaque Config.divQuot : Word → Word → Word

/-- DivSem.rem outside its fixed range (42_muldiv R146). Free, log 2. -/
opaque Config.divRem : Word → Word → Word

/-- The upper word of MulLongSem where an operand has bit 15 set (42_muldiv R143). Free, log 2. -/
opaque Config.mulLongHigh : Word → Word → Word

/-- DivLongSem outside its fixed range, quotient and remainder (42_muldiv R144). Free, log 2. -/
opaque Config.divLong : BitVec 32 → Word → Word × Word

/-- ShiftSem: a shift by 16 or more (43_shift R150). Free, log 3. -/
opaque Config.shiftSem : ShiftOp → Word → Word → Word

/-- BYTE_LOAD_EXT: how a byte operand of 80h or more is extended (30_encoding R92). Free, log 4. -/
opaque Config.byteLoadExt : ByteExt

/-- PRIV_SET: whether EI, DI, HALT, IN, OUT are privileged (47_system R196). Free, log 6. -/
opaque Config.privSet : PrivOp → Bool

/-- FAULT_SAVED_PC: which of the three candidates a fault saves (60_exceptions R202). Free, log 8. -/
opaque Config.faultSavedPc : Nat → Fin 3

/-- The words a faulting instruction leaves in the registers it writes; the second argument tells the registers of
one instruction apart (60_exceptions R202). Free, log 7. -/
opaque Config.faultWord : Nat → Nat → Word

/-- The bytes a faulting store leaves in the memory words it addresses (60_exceptions R202). Free, log 7. -/
opaque Config.faultByte : Nat → Word → Byte

/-- The I/O write that a faulting OUT has made, if it has made one: its port address and its value (45_io R181; 60_exceptions
R202 does not name the I/O space). Free, log 7. -/
opaque Config.faultOut : Nat → Option (Byte × Word)

/-- Which of InvalidAddress (true) and MemProtViolation (false) an access reports that is odd and rejected at once
(60_exceptions R210: "either"). Free, log 10. -/
opaque Config.oddFirst : Nat → Bool

/-- Translate with the MMU enabled (20_memory R62): by P, base, limit, logical address and kind. Free, log 14. -/
opaque Config.translate : Bool → Word → Word → Word → AccessKind → Translation

/-- Writable outside RAM, by the even address of the word (20_memory R52, 92_eei_decisions D25). Free, log 15. -/
opaque Config.wordWritable : Word → Bool

/-- IO_ADDR_HIGH: IN or OUT, 8 bits wide (true) or 16, at an effective address that is no port address (45_io R182,
92_eei_decisions D23). Free, log 16. -/
opaque Config.ioAddrHigh : Bool → Word → IoTarget

/-- RETI_USER: whether RETI in user mode raises PrivViolation (92_eei_decisions D20). Free, log 19. -/
opaque Config.retiUserTraps : Bool

/-- RETI_USER: FLAG after RETI in user mode, from FLAG before and the popped word (46_stack_return R189). Free, log 19. -/
opaque Config.retiUserFlags : Flags → Word → Flags

/-- What a byte of memory that nothing has written holds (10_state R40, 92_eei_decisions D36). Free, log 23. -/
opaque Config.initialByte : Word → Byte

/-- IRQ_PRIORITY: the pending source the machine would take (60_exceptions R210). Free, log 32. -/
opaque Config.irqChoice : Nat → Fin 10

/-- Whether a request stays up when it is accepted (60_exceptions R204). Free, log 31. -/
opaque Config.irqKept : Nat → Bool

/-- The requests the devices would raise at a boundary (60_exceptions R204). Free, log 31. -/
opaque Config.deviceRequests : Nat → BitVec 10

/-- The requests that an I/O access leaves up (60_exceptions R204). Free, log 31. -/
opaque Config.deviceKeeps : Nat → BitVec 10

/-- The contents of the input ports at a boundary (92_eei_decisions D32). Free, log 24. -/
opaque Config.deviceInputs : Nat → Inputs

/-- What a port reads as that the spec gives no input register, by port address (93 U21). Free, log 25. -/
opaque Config.deviceByte : Nat → Byte → Byte

/-- The bytes a uSD READ in flight writes at a boundary (60_exceptions R229). Free, log 33. -/
opaque Config.usdWrites : Nat → UsdTransfer → List (Word × Byte)

/-- Whether the uSD transfer in flight ends at a boundary (60_exceptions R229). Free, log 33. -/
opaque Config.usdDone : Nat → Bool

end Sys2Proof
end

