-- ==== Sys2Proof/Machine/Bits.lean ====
section
/-! DEFINITION. Bit fields, byte order and extensions (00_scope section 6, 20_memory R55). -/

namespace Sys2Proof.Machine

/-- Bits 15:8, the byte at the even address (20_memory R55). -/
def hiByte (w : Word) : Byte := w.extractLsb' 8 8

/-- Bits 7:0, the byte at the odd address (20_memory R55). -/
def loByte (w : Word) : Byte := w.extractLsb' 0 8

/-- The big-endian word of two bytes (20_memory R55, D1; DEDUCED, unsafe if wrong, log 39). -/
def joinBytes (hi lo : Byte) : Word := hi ++ lo

/-- `w` with its upper byte replaced: a byte access at an even address sees the upper half (20_memory R55). -/
def setHiByte (w : Word) (b : Byte) : Word := joinBytes b (loByte w)

/-- `w` with its lower byte replaced (20_memory R55). -/
def setLoByte (w : Word) (b : Byte) : Word := joinBytes (hiByte w) b

/-- An odd address (20_memory R57). -/
def isOdd (a : Word) : Bool := a.getLsbD 0

/-- The even address of the word that holds the byte at `a` (20_memory R50). -/
def wordBase (a : Word) : Word := a &&& 0xFFFE#16

/-- `zext_16` of a byte (00_scope section 6). -/
def zextByte (b : Byte) : Word := b.setWidth 16

/-- `sext_16` of a byte (00_scope section 6). -/
def sextByte (b : Byte) : Word := b.signExtend 16

/-- `sext_16` of a 4-bit field (00_scope section 6; 30_encoding R95). -/
def sextNibble (n : BitVec 4) : Word := n.signExtend 16

end Sys2Proof.Machine
end

