-- ==== Sys2Proof/Machine/Flags.lean ====
section
/-! DEFINITION. FLAG as a word (10_state R29) and the flag computations of the instructions (10_state R34, 41_alu, 42_muldiv,
43_shift), and the jump conditions (44_jump_call R160). -/

namespace Sys2Proof.Machine

/-- FLAG as a 16-bit word, `00000000 E P I 0 V C S Z` (10_state R29). -/
def Flags.toWord (f : Flags) : Word :=
  0#8 ++ (BitVec.ofBool f.e ++ BitVec.ofBool f.p ++ BitVec.ofBool f.i ++ 0#1 ++
    BitVec.ofBool f.v ++ BitVec.ofBool f.c ++ BitVec.ofBool f.s ++ BitVec.ofBool f.z)

/-- A word read into FLAG: bits 15:8 and bit 4 are discarded (46_stack_return R189: `f and 00EFh`). -/
def Flags.ofWord (w : Word) : Flags :=
  { e := w.getLsbD 7, p := w.getLsbD 6, i := w.getLsbD 5, v := w.getLsbD 3, c := w.getLsbD 2, s := w.getLsbD 1,
    z := w.getLsbD 0 }

/-- FLAG with V, C, S, Z replaced: E, P, I never change with them (10_state R34). -/
def Flags.withCond (f : Flags) (c : Cond) : Flags := { f with v := c.v, c := c.c, s := c.s, z := c.z }

/-- Z and S of a 16-bit result (10_state R34, 92_eei_decisions D5). -/
def resultCond (r : Word) (v c : Bool) : Cond := { v := v, c := c, s := r.msb, z := r == 0#16 }

/-- The flags of ADD (41_alu R131): C is the carry out of bit 15, V the signed overflow. -/
def addCond (a b : Word) : Cond :=
  resultCond (a + b) (a.msb == b.msb && (a + b).msb != a.msb) (decide (65536 ≤ a.toNat + b.toNat))

/-- The flags of SUB and CMP (41_alu R132, R133): C is the borrow, V the signed overflow. -/
def subCond (a b : Word) : Cond :=
  resultCond (a - b) (a.msb != b.msb && (a - b).msb != a.msb) (decide (a.toNat < b.toNat))

/-- The flags of AND, OR, XOR and ADDS (41_alu R134, R137): Z and S from the result, C and V drawn. -/
def logicCond (r : Word) (draw : Cond) : Cond := resultCond r draw.v draw.c

/-- The flags of a shift by `n` (43_shift R150): Z and S from the result for `n` of 1 to 15, all else drawn. -/
def shiftCond (r n : Word) (draw : Cond) : Cond :=
  if 1 ≤ n.toNat ∧ n.toNat ≤ 15 then logicCond r draw else draw

/-- JZ, JNZ (44_jump_call R161, R169). -/
def condZ (f : Flags) : Bool := f.z

/-- JC, JNC (44_jump_call R162, R170). -/
def condC (f : Flags) : Bool := f.c

/-- JM, JNM (44_jump_call R163, R171). -/
def condS (f : Flags) : Bool := f.s

/-- JO, JNO (44_jump_call R164, R172). -/
def condV (f : Flags) : Bool := f.v

/-- `S xor V`: JLT, JGE (44_jump_call R168, R166). -/
def condLt (f : Flags) : Bool := f.s ^^ f.v

/-- `Z or (S xor V)`: JLE, JGT (44_jump_call R167, R165). -/
def condLe (f : Flags) : Bool := f.z || (f.s ^^ f.v)

/-- `Z or C`: JLS, JHI (44_jump_call R174, R173). -/
def condLs (f : Flags) : Bool := f.z || f.c

end Sys2Proof.Machine
end

