-- ==== Sys2Proof/Machine/Memory.lean ====
section
/-! DEFINITION. The memory list (Host.Cell) in its one canonical form: addresses strictly rising and below 65536. What an
unlisted address reads as is `none`, no written value, so a listed byte never equals it and a write always lists. -/

namespace Sys2Proof.Machine

/-- The byte written at `a`, if one has been. -/
def Memory.read (m : Memory) (a : Nat) : Option Byte :=
  match m with
  | [] => none
  | (k, b) :: rest => if a = k then some b else Memory.read rest a

/-- `m` with the byte at `a` written; the order of the addresses is kept. -/
def Memory.write (m : Memory) (a : Nat) (v : Byte) : Memory :=
  match m with
  | [] => [(a, v)]
  | (k, b) :: rest =>
    if a < k then (a, v) :: (k, b) :: rest
    else if a = k then (a, v) :: rest
    else (k, b) :: Memory.write rest a v

/-- Every address of `m` is above `lo`, and they rise strictly and stay in the memory space (20_memory R50). -/
def Memory.risesAbove (lo : Nat) : Memory → Bool
  | [] => true
  | (k, _) :: rest => decide (lo < k) && decide (k < 65536) && Memory.risesAbove k rest

/-- The canonical form. -/
def Memory.wf : Memory → Bool
  | [] => true
  | (k, _) :: rest => decide (k < 65536) && Memory.risesAbove k rest

end Sys2Proof.Machine
end

