-- ==== Sys2Proof/Syntax.lean ====
section
/-! DEFINITION. The instructions of the TaC CPU: one constructor of `Instr` for each mnemonic of
spec/opcode_table.json, carrying its operands. The addressing mode is an operand whose type holds exactly the
modes 30_encoding R103 admits for the instruction, so that each of the table's 205 rows is one constructor of
`Instr` at one constructor of its operand (log 48). -/

namespace Sys2Proof

/-- A register operand (10_state R20): the register numbers 0h to Eh. Number Fh, PC, has no meaning as an
operand (10_state R25: refused) and no constructor; the decoder refuses it by name. -/
inductive Reg where
  | g0 | g1 | g2 | g3 | g4 | g5 | g6 | g7 | g8 | g9 | g10 | g11
  /-- G12 (10_state R22) -/
  | fp
  /-- SSP or USP, by P (10_state R23) -/
  | sp
  /-- USP whatever P is (10_state R24) -/
  | usp
deriving DecidableEq, Repr, Inhabited

/-- A location: the five addressing modes that name an address (30_encoding R94, `EffAddr`). -/
inductive Loc where
  /-- Direct, mode 0 (R85) -/
  | direct (dsp : Word)
  /-- Indexed, mode 1 (R86) -/
  | indexed (dsp : Word) (rx : Reg)
  /-- FP relative, mode 3 (R88): the field D4, half the displacement -/
  | fpRel (d4 : BitVec 4)
  /-- Register Indirect, mode 6 (R91) -/
  | indirect (rx : Reg)
  /-- Byte Register Indirect, mode 7 (R92) -/
  | byteIndirect (rx : Reg)
deriving DecidableEq, Repr, Inhabited

/-- A source operand in any of the eight modes (30_encoding R94, `Operand`). -/
inductive Src where
  /-- modes 0, 1, 3, 6, 7: the datum at a location -/
  | loc (l : Loc)
  /-- Immediate, mode 2 (R87) -/
  | imm (v : Word)
  /-- Register, mode 4 (R89) -/
  | reg (rs : Reg)
  /-- 4bit Signed Immediate, mode 5 (R90) -/
  | imm4 (i4 : BitVec 4)
deriving DecidableEq, Repr, Inhabited

/-- The target of a jump or CALL: modes 0, 1 and 6 only (30_encoding R103). -/
inductive Target where
  | direct (dsp : Word)
  | indexed (dsp : Word) (rx : Reg)
  | indirect (rx : Reg)
deriving DecidableEq, Repr, Inhabited

/-- The port of IN or OUT: modes 0, 6 and 7 only (30_encoding R103). -/
inductive Port where
  | direct (dsp : Word)
  | indirect (rx : Reg)
  | byteIndirect (rx : Reg)
deriving DecidableEq, Repr, Inhabited

/-- The instructions (30_encoding R98). -/
inductive Instr where
  | no
  | ld (rd : Reg) (src : Src)
  | ldFlag (rd : Reg)
  | st (rd : Reg) (loc : Loc)
  | add (rd : Reg) (src : Src)
  | sub (rd : Reg) (src : Src)
  | cmp (rd : Reg) (src : Src)
  | and (rd : Reg) (src : Src)
  | or (rd : Reg) (src : Src)
  | xor (rd : Reg) (src : Src)
  | adds (rd : Reg) (src : Src)
  | mul (rd : Reg) (src : Src)
  | div (rd : Reg) (src : Src)
  | mod (rd : Reg) (src : Src)
  | mull (rd : Reg) (src : Src)
  | divl (rd : Reg) (src : Src)
  | shla (rd : Reg) (src : Src)
  | shll (rd : Reg) (src : Src)
  | shra (rd : Reg) (src : Src)
  | shrl (rd : Reg) (src : Src)
  | jz (t : Target)
  | jc (t : Target)
  | jm (t : Target)
  | jo (t : Target)
  | jgt (t : Target)
  | jge (t : Target)
  | jle (t : Target)
  | jlt (t : Target)
  | jnz (t : Target)
  | jnc (t : Target)
  | jnm (t : Target)
  | jno (t : Target)
  | jhi (t : Target)
  | jls (t : Target)
  | jmp (t : Target)
  | call (t : Target)
  | inp (rd : Reg) (port : Port)
  | out (rd : Reg) (port : Port)
  | push (rd : Reg)
  | pop (rd : Reg)
  | ret
  | reti
  | ei
  | di
  | svc
  | halt
deriving DecidableEq, Repr, Inhabited

end Sys2Proof
end

