-- ==== Sys2Proof/Machine/Ops.lean ====
section
/-! DEFINITION. The named operations over registers and memory, and trap entry and its variants (60_exceptions R200-R213). -/

namespace Sys2Proof.Machine

/-- A register as it is stored: SP is one of SSP and USP (10_state R20, R23). -/
inductive PReg where
  | g0 | g1 | g2 | g3 | g4 | g5 | g6 | g7 | g8 | g9 | g10 | g11 | fp | ssp | usp
deriving DecidableEq, Repr, Inhabited

/-- The stored register that a register operand names when P is `p` (10_state R20, R23, R24). -/
def bank (p : Bool) : Reg → PReg
  | .g0 => .g0
  | .g1 => .g1
  | .g2 => .g2
  | .g3 => .g3
  | .g4 => .g4
  | .g5 => .g5
  | .g6 => .g6
  | .g7 => .g7
  | .g8 => .g8
  | .g9 => .g9
  | .g10 => .g10
  | .g11 => .g11
  | .fp => .fp
  | .sp => if p then .ssp else .usp
  | .usp => .usp

/-- Read a stored register. -/
def Regs.get (r : Regs) : PReg → Word
  | .g0 => r.g0
  | .g1 => r.g1
  | .g2 => r.g2
  | .g3 => r.g3
  | .g4 => r.g4
  | .g5 => r.g5
  | .g6 => r.g6
  | .g7 => r.g7
  | .g8 => r.g8
  | .g9 => r.g9
  | .g10 => r.g10
  | .g11 => r.g11
  | .fp => r.fp
  | .ssp => r.ssp
  | .usp => r.usp

/-- Write a stored register. -/
def Regs.set (r : Regs) (p : PReg) (v : Word) : Regs :=
  match p with
  | .g0 => { r with g0 := v }
  | .g1 => { r with g1 := v }
  | .g2 => { r with g2 := v }
  | .g3 => { r with g3 := v }
  | .g4 => { r with g4 := v }
  | .g5 => { r with g5 := v }
  | .g6 => { r with g6 := v }
  | .g7 => { r with g7 := v }
  | .g8 => { r with g8 := v }
  | .g9 => { r with g9 := v }
  | .g10 => { r with g10 := v }
  | .g11 => { r with g11 := v }
  | .fp => { r with fp := v }
  | .ssp => { r with ssp := v }
  | .usp => { r with usp := v }

/-- `x[i]` (00_scope section 6): the register an operand names, by the P of this state. -/
def State.reg (s : State) (r : Reg) : Word := s.regs.get (bank s.flag.p r)

/-- Write a stored register. -/
def State.setPReg (s : State) (p : PReg) (v : Word) : State := { s with regs := s.regs.set p v }

/-- `x[i] <- v` (00_scope section 6). -/
def State.setReg (s : State) (r : Reg) (v : Word) : State := s.setPReg (bank s.flag.p r) v

/-- Replace PC. -/
def State.setPc (s : State) (a : Word) : State := { s with pc := a }

/-- `pc <- (pc + len) mod 2^16` (10_state R27; the wrap is D4, log 41). -/
def State.advance (s : State) (len : Word) : State := s.setPc (s.pc + len)

/-- Replace the whole of FLAG. -/
def State.setFlags (s : State) (f : Flags) : State := { s with flag := f }

/-- Replace V, C, S, Z (10_state R34). -/
def State.setCond (s : State) (c : Cond) : State := s.setFlags (s.flag.withCond c)

/-- Replace memory. -/
def State.setMem (s : State) (m : Memory) : State := { s with mem := m }

/-- The next free value is a fresh one (log 37). -/
def State.nextDraw (s : State) : State := { s with tick := s.tick + 1 }

/-- Replace the pending interrupt bits. -/
def State.setPending (s : State) (b : BitVec 10) : State := { s with pending := b }

/-- The byte at a physical address: what was last written there, or what memory holds at power-on, which the spec
does not give (10_state R40; free, log 23). -/
def State.byteAt (s : State) (a : Word) : Byte := (s.mem.read a.toNat).getD (Config.initialByte a)

/-- Write the byte at a physical address. -/
def State.setByte (s : State) (a : Word) (v : Byte) : State := s.setMem (s.mem.write a.toNat v)

/-- The big-endian word at a physical address (20_memory R55). -/
def State.wordAt (s : State) (a : Word) : Word := joinBytes (s.byteAt a) (s.byteAt (a + 1#16))

/-- Write the big-endian word at a physical address (20_memory R55). -/
def State.setWord (s : State) (a : Word) (v : Word) : State := (s.setByte a (hiByte v)).setByte (a + 1#16) (loByte v)

/-- Writable (20_memory R52, D25): RAM is; of the IPL ROM and the vector words the open parameter says, once for each word
(log 15). It is asked of the PHYSICAL address that Translate gives, which with the MMU on need not be the logical one: the
spec does not say which of the two is meant (DESIGN CHOICE, log 15). -/
def writable (a : Word) : Bool := decide (a.toNat < 0xF000) || Config.wordWritable (wordBase a)

/-- The six exceptions (60_exceptions R201). -/
inductive Exc where
  | invalidAddress
  | memProtViolation
  | zeroDivide
  | privViolation
  | undefinedInstruction
  | svc
deriving DecidableEq, Repr, Inhabited

/-- The vector number of an exception (60_exceptions R201). -/
def Exc.vector : Exc → BitVec 4
  | .invalidAddress => 10#4
  | .memProtViolation => 11#4
  | .zeroDivide => 12#4
  | .privViolation => 13#4
  | .undefinedInstruction => 14#4
  | .svc => 15#4

/-- The address of vector `n`, FFE0h + 2n (60_exceptions R200). -/
def vectorAddr (n : BitVec 4) : Word := 0xFFE0#16 + 2#16 * n.setWidth 16

/-- Translate (20_memory R62): the identity with the MMU off, the open parameter with it on (log 14). -/
def State.translate (s : State) (kind : AccessKind) (a : Word) : Translation :=
  if s.mmuEn then Config.translate s.flag.p s.mmuBase s.mmuLimit a kind else { phys := a, permitted := true }

/-- The protection check of an access (20_memory R62) and, for a 16-bit one, the alignment check on the logical
address (20_memory R57): the physical address, or the exception. Which one is reported where both hold is open
(60_exceptions R210; log 10). -/
def State.check (s : State) (kind : AccessKind) (byte : Bool) (a : Word) : Except Exc Word :=
  if !byte && isOdd a then
    if (s.translate kind a).permitted || Config.oddFirst s.tick then .error .invalidAddress
    else .error .memProtViolation
  else if (s.translate kind a).permitted then .ok (s.translate kind a).phys
  else .error .memProtViolation

/-- `MemRead(a, 2)` (00_scope section 6). -/
def State.loadWord (s : State) (kind : AccessKind) (a : Word) : Except Exc Word :=
  (s.check kind false a).map s.wordAt

/-- `MemRead(a, 1)` (00_scope section 6). -/
def State.loadByte (s : State) (kind : AccessKind) (a : Word) : Except Exc Byte :=
  (s.check kind true a).map s.byteAt

/-- What a write to memory comes to. -/
inductive StoreResult where
  | done (s : State)
  | raises (x : Exc)
  /-- a byte that is not Writable (20_memory R61, D25: refused) -/
  | readOnly
deriving DecidableEq, Repr

/-- `MemWrite(a, 2, v)` (00_scope section 6). -/
def State.storeWord (s : State) (kind : AccessKind) (a v : Word) : StoreResult :=
  match s.check kind false a with
  | .ok p => if writable p && writable (p + 1#16) then .done (s.setWord p v) else .readOnly
  | .error x => .raises x

/-- `MemWrite(a, 1, v)` (00_scope section 6). -/
def State.storeByte (s : State) (kind : AccessKind) (a : Word) (v : Byte) : StoreResult :=
  match s.check kind true a with
  | .ok p => if writable p then .done (s.setByte p v) else .readOnly
  | .error x => .raises x

/-- The memory access of ST (40_no_ld_st R123) and of a push: 8 bits, of bits 7:0, or 16. -/
def State.store (s : State) (byte : Bool) (a v : Word) : StoreResult :=
  if byte then s.storeByte .write a (loByte v) else s.storeWord .write a v

/-- FLAG at trap entry: P set, E cleared, the rest unchanged (60_exceptions R208). -/
def Flags.trapped (f : Flags) : Flags := { f with p := true, e := false }

/-- One push of trap entry, on SSP (60_exceptions R208). -/
def State.trapPush (s : State) (v : Word) : StoreResult :=
  match s.storeWord .trapPush (s.regs.ssp - 2#16) v with
  | .done t => .done (t.setPReg .ssp (s.regs.ssp - 2#16))
  | .raises x => .raises x
  | .readOnly => .readOnly

/-- The last part of trap entry: PC from the vector (60_exceptions R207, R208). A fault here, or an odd handler
address, has no meaning in the spec (60_exceptions R213; log 13). -/
def State.trapJump (s : State) (n : BitVec 4) : Result :=
  match s.loadWord .vectorFetch (vectorAddr n) with
  | .ok h => if isOdd h then .refused .trapEntryFault else .next (s.setPc h)
  | .error _ => .refused .trapEntryFault

/-- TRAP ENTRY through vector `n` with the saved PC `spc` (60_exceptions R208): P set and E cleared, PC then the whole
old FLAG pushed on SSP, PC from the vector. A fault in it is refused (60_exceptions R213; log 13). -/
def State.trapEntry (s : State) (n : BitVec 4) (spc : Word) : Result :=
  match (s.setFlags s.flag.trapped).trapPush spc with
  | .done s1 =>
    match s1.trapPush s.flag.toWord with
    | .done s2 => s2.trapJump n
    | .raises _ => .refused .trapEntryFault
    | .readOnly => .refused .romWrite
  | .raises _ => .refused .trapEntryFault
  | .readOnly => .refused .romWrite

/-- FAULT_SAVED_PC (60_exceptions R202): the address of the instruction, of its second word, or of the next
instruction (free among the three, log 8). -/
def State.faultPc (s : State) (len : Word) : Word :=
  if Config.faultSavedPc s.tick = 0 then s.pc
  else if Config.faultSavedPc s.tick = 1 then s.pc + 2#16
  else s.pc + len

/-- A fault of an instruction of `len` bytes: trap entry through its vector with the open saved PC
(60_exceptions R202). The caller has already put free values where the instruction writes (log 7). -/
def State.takeFault (s : State) (x : Exc) (len : Word) : Result :=
  s.nextDraw.trapEntry x.vector (s.faultPc len)

/-- A register that a faulting instruction writes: a free value (60_exceptions R202; log 7). -/
def State.drawReg (s : State) (r : Reg) (slot : Nat) : State := s.setReg r (Config.faultWord s.tick slot)

/-- V, C, S, Z of a faulting instruction that writes them: free values (60_exceptions R202; log 7). -/
def State.drawCond (s : State) : State := s.setCond (Config.flagDraw s.tick)

/-- A byte that a faulting store may have touched: a free value, if the byte is Writable (60_exceptions R202; log 7). -/
def State.drawByte (s : State) (a : Word) : State :=
  if writable a then s.setByte a (Config.faultByte s.tick a) else s

/-- The memory word that holds the byte at `a`: free values (60_exceptions R202; log 7). -/
def State.drawWord (s : State) (a : Word) : State := (s.drawByte (wordBase a)).drawByte (wordBase a + 1#16)

/-- The memory words that contain the bytes a faulting store addresses: free values (60_exceptions R202; log 7). -/
def State.drawStore (s : State) (byte : Bool) (a : Word) : State :=
  if byte then s.drawWord (s.translate .write a).phys
  else (s.drawWord (s.translate .write a).phys).drawWord ((s.translate .write a).phys + 1#16)

/-- What a faulting instruction that writes Rd and V, C, S, Z leaves (60_exceptions R202; log 7). -/
def State.drawResult (s : State) (rd : Reg) : State := (s.drawReg rd 0).drawCond

/-- What a faulting MULL or DIVL leaves: both registers and the flags free (60_exceptions R202, 42_muldiv R145; log 7). -/
def State.drawPair (s : State) (rd hi : Reg) : State := ((s.drawReg rd 0).drawReg hi 1).drawCond

/-- What a faulting push leaves: SP and the memory words it addresses free (60_exceptions R202; log 7). -/
def State.drawPush (s : State) : State := (s.drawStore false (s.reg .sp - 2#16)).drawReg .sp 0

/-- `IOAllowed(FLAG)` (45_io R183). -/
def State.ioAllowed (s : State) : Bool := s.flag.p || s.flag.i

/-- IN or OUT is privileged and not allowed (45_io R183, 47_system R196; PRIV_SET is open, log 6). -/
def State.ioDenied (s : State) (x : PrivOp) : Bool := !s.ioAllowed && Config.privSet x

/-- `Privileged(X) and FLAG.P = 0` (47_system R192, R196). -/
def State.denied (s : State) (x : PrivOp) : Bool := !s.flag.p && Config.privSet x

/-- FLAG that RETI loads from the popped word: the word itself in privileged mode, RETI_USER in user mode
(46_stack_return R189; log 19). -/
def State.retiFlags (s : State) (f : Word) : Flags :=
  if s.flag.p then Flags.ofWord f else Config.retiUserFlags s.flag f

/-- The FLAG and PC that RETI pops, or the exception of the first access that raises one (46_stack_return R189). -/
def State.popFrame (s : State) : Except Exc (Word × Word) :=
  match s.loadWord .read (s.reg .sp), s.loadWord .read (s.reg .sp + 2#16) with
  | .ok f, .ok t => .ok (f, t)
  | .error x, _ => .error x
  | .ok _, .error x => .error x

/-- TRAP RETURN (60_exceptions R211, 46_stack_return R189): FLAG and PC popped from the stack SP names at the start; SP
plus 4. Where an access faults, SP and FLAG, which the instruction writes, are free (60_exceptions R202; log 7). -/
def State.trapReturn (s : State) : Result :=
  match s.popFrame with
  | .ok (f, t) => .next (((s.setReg .sp (s.reg .sp + 4#16)).setFlags (s.retiFlags f)).setPc t)
  | .error x => ((s.drawReg .sp 0).setFlags (s.retiFlags (Config.faultWord s.tick 1))).takeFault x 2#16

end Sys2Proof.Machine
end

