-- ==== Sys2Proof/Machine/Operands.lean ====
section
/-! DEFINITION. Operand assembly (30_encoding R82, R85-R95): lengths, effective addresses, source operands. -/

namespace Sys2Proof.Machine

/-- The length in bytes of an instruction with this location (30_encoding R82). -/
def locLen : Loc → Word
  | .direct _ => 4#16
  | .indexed _ _ => 4#16
  | .fpRel _ => 2#16
  | .indirect _ => 2#16
  | .byteIndirect _ => 2#16

/-- The length in bytes of an instruction with this source (30_encoding R82). -/
def srcLen : Src → Word
  | .loc l => locLen l
  | .imm _ => 4#16
  | .reg _ => 2#16
  | .imm4 _ => 2#16

/-- A jump target as a location. -/
def targetLoc : Target → Loc
  | .direct d => .direct d
  | .indexed d r => .indexed d r
  | .indirect r => .indirect r

/-- A port as a location. -/
def portLoc : Port → Loc
  | .direct d => .direct d
  | .indirect r => .indirect r
  | .byteIndirect r => .byteIndirect r

/-- Mode 7, the only one with an 8-bit datum (30_encoding R92). -/
def isByteLoc : Loc → Bool
  | .byteIndirect _ => true
  | _ => false

/-- `EffAddr()` (30_encoding R94); every sum wraps modulo 2^16 (D4, log 41). -/
def State.effAddr (s : State) : Loc → Word
  | .direct d => d
  | .indexed d r => d + s.reg r
  | .fpRel d4 => s.reg .fp + 2#16 * sextNibble d4
  | .indirect r => s.reg r
  | .byteIndirect r => s.reg r

/-- BYTE_LOAD_EXT (30_encoding R92): a byte below 80h extends the same either way; the other bytes by the open
parameter (log 4). -/
def extByte (b : Byte) : Word :=
  if b.msb then
    match Config.byteLoadExt with
    | .zero => zextByte b
    | .sign => sextByte b
  else zextByte b

/-- The datum at a location (30_encoding R94, modes 0, 1, 3, 6, 7). -/
def State.loadLoc (s : State) (l : Loc) : Except Exc Word :=
  if isByteLoc l then (s.loadByte .read (s.effAddr l)).map extByte else s.loadWord .read (s.effAddr l)

/-- `Operand()` (30_encoding R94). -/
def State.operand (s : State) : Src → Except Exc Word
  | .loc l => s.loadLoc l
  | .imm v => .ok v
  | .reg r => .ok (s.reg r)
  | .imm4 i => .ok (sextNibble i)

end Sys2Proof.Machine
end

