-- ==== Sys2Proof/Machine/Io.lean ====
section
/-! DEFINITION. The I/O space (20_memory R51, R54, R55; 60_exceptions R222-R234) and IN, OUT (45_io). Ports are read and
written by bytes; a 16-bit access is both bytes of its row, the even one the upper (20_memory R55). -/

namespace Sys2Proof.Machine

/-- `TR00 0000` (60_exceptions R225). -/
def SerialBits.toByte (x : SerialBits) : Byte := BitVec.ofBool x.t ++ BitVec.ofBool x.r ++ 0#6

/-- `TR00 0000` (60_exceptions R225). -/
def SerialBits.ofByte (b : Byte) : SerialBits := { t := b.getLsbD 7, r := b.getLsbD 6 }

/-- `0000 IE00` (60_exceptions R228). -/
def UsdStat.toByte (x : UsdStat) : Byte := 0#4 ++ BitVec.ofBool x.idle ++ BitVec.ofBool x.error ++ 0#2

/-- RN4020-Cmd as it is read: its initial value until an OUT has written it, then an open value in the bits F H C S
(60_exceptions R226, 92_eei_decisions D32; log 28). -/
def State.rn4020CmdByte (s : State) : Byte :=
  if s.out.rn4020CmdWritten then 0#4 ++ (Config.deviceByte s.tick 0x2D#8).setWidth 4 else 0#4 ++ s.out.rn4020Cmd

/-- The byte that a read of the I/O space gets at an address (20_memory R54; 60_exceptions R222-R234). The even bytes
marked 00H read 0; a port with no input register (free, reserved, output only, or of no stated direction) reads as an
open value (93 U21; log 25). -/
def State.ioByte (s : State) (a : Byte) : Byte :=
  match a.toNat with
  | 0x00 => hiByte s.inp.timer0Value
  | 0x01 => loByte s.inp.timer0Value
  | 0x02 => hiByte s.inp.timer0Flag
  | 0x03 => loByte s.inp.timer0Flag
  | 0x04 => hiByte s.inp.timer1Value
  | 0x05 => loByte s.inp.timer1Value
  | 0x06 => hiByte s.inp.timer1Flag
  | 0x07 => loByte s.inp.timer1Flag
  | 0x09 => s.inp.ft232rlData
  | 0x0B => s.inp.ft232rlStat.toByte
  | 0x0D => s.inp.tecData
  | 0x0F => s.inp.tecStat.toByte
  | 0x11 => s.inp.usdStat.toByte
  | 0x19 => s.inp.extIn
  | 0x1F => 0#5 ++ s.mode
  | 0x21 => s.inp.adc0
  | 0x23 => s.inp.adc1
  | 0x25 => s.inp.adc2
  | 0x27 => s.inp.adc3
  | 0x29 => s.inp.rn4020Data
  | 0x2B => s.inp.rn4020Stat.toByte
  | 0x2D => s.rn4020CmdByte
  | 0xF8 => hiByte s.inp.dataSw
  | 0xF9 => loByte s.inp.dataSw
  | 0xFA => hiByte s.inp.consoleAddr
  | 0xFB => loByte s.inp.consoleAddr
  | 0xFD => 0#3 ++ s.inp.rotary
  | 0xFF => 0#4 ++ s.inp.func
  | 0x08 | 0x0A | 0x0C | 0x0E | 0x10 | 0x18 | 0x1A | 0x1C | 0x1E => 0#8
  | 0x20 | 0x22 | 0x24 | 0x26 | 0x28 | 0x2A | 0x2C | 0x2E | 0xFC | 0xFE => 0#8
  | _ => Config.deviceByte s.tick a

/-- Replace the output registers. -/
def State.setOut (s : State) (o : Outputs) : State := { s with out := o }

/-- A write of uSD-Ctrl (60_exceptions R228, R229): READ or WRITE starts a transfer at the uSD address registers
(log 33). -/
def State.writeUsdCtrl (s : State) (v : Byte) : State :=
  { s.setOut { s.out with usdCtrl := v.setWidth 4 } with
    usd :=
      if v.getLsbD 1 || v.getLsbD 0 then
        some { toMemory := v.getLsbD 1, memAddr := s.out.usdMemAddr, blkAddr := s.out.usdBlkAddrH ++ s.out.usdBlkAddrL }
      else s.usd }

/-- A write of MMU_EN, MMU_BASE and MMU_LIMIT together (10_state R38). -/
def State.setMmu (s : State) (en : Bool) (base limit : Word) : State :=
  { s with mmuEn := en, mmuBase := base, mmuLimit := limit }

/-- The effect of one byte written to the I/O space on the registers the spec names (20_memory R54; 60_exceptions
R222-R234; 10_state R38). Any other byte has none (93 U22). -/
def State.ioSetByte (s : State) (a : Byte) (v : Byte) : State :=
  match a.toNat with
  | 0x00 => s.setOut { s.out with timer0Period := setHiByte s.out.timer0Period v }
  | 0x01 => s.setOut { s.out with timer0Period := setLoByte s.out.timer0Period v }
  | 0x02 => s.setOut { s.out with timer0Ctrl := setHiByte s.out.timer0Ctrl v }
  | 0x03 => s.setOut { s.out with timer0Ctrl := setLoByte s.out.timer0Ctrl v }
  | 0x04 => s.setOut { s.out with timer1Period := setHiByte s.out.timer1Period v }
  | 0x05 => s.setOut { s.out with timer1Period := setLoByte s.out.timer1Period v }
  | 0x06 => s.setOut { s.out with timer1Ctrl := setHiByte s.out.timer1Ctrl v }
  | 0x07 => s.setOut { s.out with timer1Ctrl := setLoByte s.out.timer1Ctrl v }
  | 0x09 => s.setOut { s.out with ft232rlTx := v }
  | 0x0B => s.setOut { s.out with ft232rlCtrl := SerialBits.ofByte v }
  | 0x0D => s.setOut { s.out with tecTx := v }
  | 0x0F => s.setOut { s.out with tecCtrl := SerialBits.ofByte v }
  | 0x11 => s.writeUsdCtrl v
  | 0x12 => s.setOut { s.out with usdMemAddr := setHiByte s.out.usdMemAddr v }
  | 0x13 => s.setOut { s.out with usdMemAddr := setLoByte s.out.usdMemAddr v }
  | 0x14 => s.setOut { s.out with usdBlkAddrH := setHiByte s.out.usdBlkAddrH v }
  | 0x15 => s.setOut { s.out with usdBlkAddrH := setLoByte s.out.usdBlkAddrH v }
  | 0x16 => s.setOut { s.out with usdBlkAddrL := setHiByte s.out.usdBlkAddrL v }
  | 0x17 => s.setOut { s.out with usdBlkAddrL := setLoByte s.out.usdBlkAddrL v }
  | 0x19 => s.setOut { s.out with extOut := v }
  | 0x1B => s.setOut { s.out with adcRef := v }
  | 0x1D => s.setOut { s.out with extHiOutput := v.getLsbD 7, extHiValue := v.setWidth 4 }
  | 0x29 => s.setOut { s.out with rn4020Tx := v }
  | 0x2B => s.setOut { s.out with rn4020Ctrl := SerialBits.ofByte v }
  | 0x2D => s.setOut { s.out with rn4020Cmd := v.setWidth 4, rn4020CmdWritten := true }
  | 0xF1 => s.setMmu (v.getLsbD 0) s.mmuBase s.mmuLimit
  | 0xF4 => s.setMmu s.mmuEn (setHiByte s.mmuBase v) s.mmuLimit
  | 0xF5 => s.setMmu s.mmuEn (setLoByte s.mmuBase v) s.mmuLimit
  | 0xF6 => s.setMmu s.mmuEn s.mmuBase (setHiByte s.mmuLimit v)
  | 0xF7 => s.setMmu s.mmuEn s.mmuBase (setLoByte s.mmuLimit v)
  | 0xF8 => s.setOut { s.out with consoleData := setHiByte s.out.consoleData v }
  | 0xF9 => s.setOut { s.out with consoleData := setLoByte s.out.consoleData v }
  | _ => s

/-- Record an I/O write (20_memory R61; log 38). -/
def State.logIo (s : State) (e : IoEvent) : State := { s with ioLog := e :: s.ioLog }

/-- An I/O access may clear requests (60_exceptions R204; log 31); the next free value is a fresh one. -/
def State.ioSettle (s : State) : State := (s.setPending (s.pending &&& Config.deviceKeeps s.tick)).nextDraw

/-- The value an `IORead` gets (45_io R180): the byte zero-extended, or the big-endian word of the row. -/
def State.ioValue (s : State) (byte : Bool) (a : Byte) : Word :=
  if byte then zextByte (s.ioByte a) else joinBytes (s.ioByte a) (s.ioByte (a + 1#8))

/-- The registers after an `IOWrite` (45_io R181). -/
def State.ioStore (s : State) (byte : Bool) (a : Byte) (v : Word) : State :=
  if byte then s.ioSetByte a (loByte v) else (s.ioSetByte a (hiByte v)).ioSetByte (a + 1#8) (loByte v)

/-- An address of the I/O space, even for a 16-bit access (45_io R182). -/
def ioAddrOk (byte : Bool) (a : Word) : Bool := decide (a.toNat ≤ 0xFF) && (byte || !isOdd a)

/-- The port address of IN or OUT before the check. -/
def State.portAddr (s : State) (p : Port) : Word := s.effAddr (portLoc p)

/-- The port names a byte (mode 7). -/
def portByte (p : Port) : Bool := isByteLoc (portLoc p)

/-- The length in bytes of IN or OUT (45_io R180). -/
def portLen (p : Port) : Word := locLen (portLoc p)

/-- `IOAddrCheck` (45_io R182): the address itself where it is one of the I/O space, else what IO_ADDR_HIGH says, which is
open (92_eei_decisions D23; log 16). -/
def State.ioTarget (s : State) (p : Port) : IoTarget :=
  if ioAddrOk (portByte p) (s.portAddr p) then .port (loByte (s.portAddr p))
  else Config.ioAddrHigh (portByte p) (s.portAddr p)

/-- The state after IN has read the I/O space at `a` (45_io R180). -/
def State.readPort (s : State) (rd : Reg) (p : Port) (a : Byte) : State :=
  ((s.setReg rd (s.ioValue (portByte p) a)).ioSettle).advance (portLen p)

/-- `IOWrite(a, n, v)` (00_scope section 6): the registers of the port, the record (20_memory R61), the requests it may
clear (60_exceptions R204). -/
def State.ioWrite (s : State) (byte : Bool) (a : Byte) (v : Word) : State :=
  ((s.ioStore byte a v).logIo
    { addr := a, byte := byte, value := if byte then zextByte (loByte v) else v }).ioSettle

/-- The state after OUT has written the I/O space at `a` (45_io R181). -/
def State.writePort (s : State) (rd : Reg) (p : Port) (a : Byte) : State :=
  (s.ioWrite (portByte p) a (s.reg rd)).advance (portLen p)

/-- What a faulting IN leaves: Rd free (60_exceptions R202), and the requests that an I/O access may clear. One that is denied
makes no I/O access (45_io R183). DESIGN CHOICE, log 7. -/
def State.drawIn (s : State) (rd : Reg) : State :=
  if s.ioDenied .inp then s.drawReg rd 0 else (s.drawReg rd 0).ioSettle

/-- What a faulting OUT leaves in the registers it writes, those of the ports and of the MMU (45_io R181 (b)): it has made
no I/O write, or one with a free address and a free value. 60_exceptions R202 does not name the I/O space, so this is the
model's choice (DESIGN CHOICE, log 7). One that is denied makes no I/O access (45_io R183). -/
def State.drawOut (s : State) (byte : Bool) : State :=
  if s.ioDenied .out then s
  else
    match Config.faultOut s.tick with
    | none => s
    | some (a, v) => s.ioWrite byte a v

/-- IN Rd,EA (R180). -/
def execInp (rd : Reg) (p : Port) (s : State) : Result :=
  if s.ioDenied .inp then s.takeFault .privViolation (portLen p)
  else
    match s.ioTarget p with
    | .port a => .next (s.readPort rd p a)
    | .raises => (s.drawIn rd).takeFault .invalidAddress (portLen p)
    | .refuse => .refused .ioAddress

/-- OUT Rd,EA (R181): it writes no CPU register and no memory. Where IO_ADDR_HIGH raises, whether it has written a port is
free (DESIGN CHOICE, log 7). -/
def execOut (rd : Reg) (p : Port) (s : State) : Result :=
  if s.ioDenied .out then s.takeFault .privViolation (portLen p)
  else
    match s.ioTarget p with
    | .port a => .next (s.writePort rd p a)
    | .raises => (s.drawOut (portByte p)).takeFault .invalidAddress (portLen p)
    | .refuse => .refused .ioAddress

end Sys2Proof.Machine
end

