-- ==== Sys2Proof/Machine/Stack.lean ====
section
/-! DEFINITION. PUSH, POP, RET, RETI (46_stack_return), with the push that CALL shares. -/

namespace Sys2Proof.Machine

/-- A push (46_stack_return R185): SP minus 2, then the word at SP. -/
def State.pushWord (s : State) (v : Word) : StoreResult :=
  match s.store false (s.reg .sp - 2#16) v with
  | .done t => .done (t.setReg .sp (s.reg .sp - 2#16))
  | .raises x => .raises x
  | .readOnly => .readOnly

/-- The register names the stack pointer that the instruction uses (46_stack_return R186, R187). -/
def State.namesSp (s : State) (r : Reg) : Bool := bank s.flag.p r == bank s.flag.p .sp

/-- PUSH Rd (R186). A push of the stack pointer it uses is refused (R186, 92_eei_decisions D33; log 18). -/
def execPush (rd : Reg) (s : State) : Result :=
  if s.namesSp rd then .refused .stackPointerOperand
  else
    match s.pushWord (s.reg rd) with
    | .done t => .next (t.advance 2#16)
    | .raises x => s.drawPush.takeFault x 2#16
    | .readOnly => .refused .romWrite

/-- POP Rd (R187). A pop of the stack pointer it uses is refused (R187, 92_eei_decisions D33; log 18). -/
def execPop (rd : Reg) (s : State) : Result :=
  if s.namesSp rd then .refused .stackPointerOperand
  else
    match s.loadWord .read (s.reg .sp) with
    | .ok v => .next (((s.setReg .sp (s.reg .sp + 2#16)).setReg rd v).advance 2#16)
    | .error x => ((s.drawReg .sp 0).drawReg rd 1).takeFault x 2#16

/-- RET (R188). -/
def execRet (s : State) : Result :=
  match s.loadWord .read (s.reg .sp) with
  | .ok t => .next ((s.setReg .sp (s.reg .sp + 2#16)).setPc t)
  | .error x => (s.drawReg .sp 0).takeFault x 2#16

/-- RETI (R189): trap return; in user mode RETI_USER may raise PrivViolation instead (92_eei_decisions D20; log 19). -/
def execReti (s : State) : Result :=
  if !s.flag.p && Config.retiUserTraps then s.takeFault .privViolation 2#16 else s.trapReturn

end Sys2Proof.Machine
end

