-- ==== Sys2Proof/Machine/Jump.lean ====
section
/-! DEFINITION. The fifteen jumps and CALL (44_jump_call). -/

namespace Sys2Proof.Machine

/-- The length in bytes of a jump or CALL (44_jump_call R160). -/
def targetLen (t : Target) : Word := locLen (targetLoc t)

/-- The address a jump or CALL names: the effective address itself, not the word there (44_jump_call R160;
90_conflicts C9). -/
def State.targetAddr (s : State) (t : Target) : Word := s.effAddr (targetLoc t)

/-- The common frame of the jumps (44_jump_call R160): no flag, register or memory changes. -/
def State.jumpIf (s : State) (taken : Bool) (t : Target) : Result :=
  .next (if taken then s.setPc (s.targetAddr t) else s.advance (targetLen t))

/-- JZ (R161). -/
def execJz (t : Target) (s : State) : Result := s.jumpIf (condZ s.flag) t

/-- JC (R162). -/
def execJc (t : Target) (s : State) : Result := s.jumpIf (condC s.flag) t

/-- JM (R163). -/
def execJm (t : Target) (s : State) : Result := s.jumpIf (condS s.flag) t

/-- JO (R164). -/
def execJo (t : Target) (s : State) : Result := s.jumpIf (condV s.flag) t

/-- JGT (R165). -/
def execJgt (t : Target) (s : State) : Result := s.jumpIf (!condLe s.flag) t

/-- JGE (R166). -/
def execJge (t : Target) (s : State) : Result := s.jumpIf (!condLt s.flag) t

/-- JLE (R167). -/
def execJle (t : Target) (s : State) : Result := s.jumpIf (condLe s.flag) t

/-- JLT (R168). -/
def execJlt (t : Target) (s : State) : Result := s.jumpIf (condLt s.flag) t

/-- JNZ (R169). -/
def execJnz (t : Target) (s : State) : Result := s.jumpIf (!condZ s.flag) t

/-- JNC (R170). -/
def execJnc (t : Target) (s : State) : Result := s.jumpIf (!condC s.flag) t

/-- JNM (R171). -/
def execJnm (t : Target) (s : State) : Result := s.jumpIf (!condS s.flag) t

/-- JNO (R172). -/
def execJno (t : Target) (s : State) : Result := s.jumpIf (!condV s.flag) t

/-- JHI (R173). -/
def execJhi (t : Target) (s : State) : Result := s.jumpIf (!condLs s.flag) t

/-- JLS (R174). -/
def execJls (t : Target) (s : State) : Result := s.jumpIf (condLs s.flag) t

/-- JMP (R175). -/
def execJmp (t : Target) (s : State) : Result := s.jumpIf true t

/-- CALL (R176): the target first, then the address of the next instruction pushed, then PC. A faulting push leaves SP
and the memory words it addresses free (60_exceptions R202; log 7). -/
def execCall (t : Target) (s : State) : Result :=
  match s.pushWord (s.pc + targetLen t) with
  | .done u => .next (u.setPc (s.targetAddr t))
  | .raises x => s.drawPush.takeFault x (targetLen t)
  | .readOnly => .refused .romWrite

end Sys2Proof.Machine
end

