-- ==== Sys2Proof/Machine/LoadStore.lean ====
section
/-! DEFINITION. NO, LD, LD Rd,FLAG, ST (40_no_ld_st). -/

namespace Sys2Proof.Machine

/-- NO (R120). -/
def execNo (s : State) : Result := .next (s.advance 2#16)

/-- LD Rd,EA (R121): no flag changes. -/
def execLd (rd : Reg) (src : Src) (s : State) : Result :=
  match s.operand src with
  | .ok v => .next ((s.setReg rd v).advance (srcLen src))
  | .error x => (s.drawReg rd 0).takeFault x (srcLen src)

/-- LD Rd,FLAG (R122). -/
def execLdFlag (rd : Reg) (s : State) : Result := .next ((s.setReg rd s.flag.toWord).advance 2#16)

/-- ST Rd,EA (R123; 90_conflicts C1): Rd, or its bits 7:0 in mode 7, to the location. -/
def execSt (rd : Reg) (l : Loc) (s : State) : Result :=
  match s.store (isByteLoc l) (s.effAddr l) (s.reg rd) with
  | .done t => .next (t.advance (locLen l))
  | .raises x => (s.drawStore (isByteLoc l) (s.effAddr l)).takeFault x (locLen l)
  | .readOnly => .refused .romWrite

end Sys2Proof.Machine
end

