-- ==== Sys2Proof/Machine/Alu.lean ====
section
/-! DEFINITION. ADD, SUB, CMP, AND, OR, XOR, ADDS (41_alu), and the frame that the multiply, divide and shift families
share with them (41_alu R130). -/

namespace Sys2Proof.Machine

/-- The common frame of the register-writing instructions of 41_alu, 42_muldiv and 43_shift (R130): Rd from its old
value and the operand, V C S Z from those and a draw. A faulting operand access leaves Rd and V C S Z free
(60_exceptions R202). -/
def State.aluOp (s : State) (rd : Reg) (src : Src) (result : Word → Word → Word)
    (cond : Word → Word → Cond → Cond) : Result :=
  match s.operand src with
  | .ok b =>
    .next ((((s.setReg rd (result (s.reg rd) b)).setCond
      (cond (s.reg rd) b (Config.flagDraw s.tick))).nextDraw).advance (srcLen src))
  | .error x => (s.drawResult rd).takeFault x (srcLen src)

/-- ADD (R131). -/
def execAdd (rd : Reg) (src : Src) (s : State) : Result :=
  s.aluOp rd src (fun a b => a + b) (fun a b _ => addCond a b)

/-- SUB (R132). -/
def execSub (rd : Reg) (src : Src) (s : State) : Result :=
  s.aluOp rd src (fun a b => a - b) (fun a b _ => subCond a b)

/-- CMP (R133): the flags of SUB, no register written. -/
def execCmp (rd : Reg) (src : Src) (s : State) : Result :=
  match s.operand src with
  | .ok b => .next ((s.setCond (subCond (s.reg rd) b)).advance (srcLen src))
  | .error x => s.drawCond.takeFault x (srcLen src)

/-- AND (R134). -/
def execAnd (rd : Reg) (src : Src) (s : State) : Result :=
  s.aluOp rd src (fun a b => a &&& b) (fun a b d => logicCond (a &&& b) d)

/-- OR (R135). -/
def execOr (rd : Reg) (src : Src) (s : State) : Result :=
  s.aluOp rd src (fun a b => a ||| b) (fun a b d => logicCond (a ||| b) d)

/-- XOR (R136). -/
def execXor (rd : Reg) (src : Src) (s : State) : Result :=
  s.aluOp rd src (fun a b => a ^^^ b) (fun a b d => logicCond (a ^^^ b) d)

/-- ADDS (R137; 90_conflicts C2): the operand doubled and added. -/
def execAdds (rd : Reg) (src : Src) (s : State) : Result :=
  s.aluOp rd src (fun a b => a + 2#16 * b) (fun a b d => logicCond (a + 2#16 * b) d)

end Sys2Proof.Machine
end

