-- ==== Sys2Proof/Machine/MulDiv.lean ====
section
/-! DEFINITION. MUL, DIV, MOD, MULL, DIVL (42_muldiv). The four flags are draws after every one of them. -/

namespace Sys2Proof.Machine

/-- Both operands are in the range where the signed and unsigned readings agree (42_muldiv R141, R146). -/
def bothPositive (a b : Word) : Bool := !a.msb && !b.msb

/-- DivSem.quot (42_muldiv R141, R146), for a non-zero divisor: `floor(a / b)` where both are below 8000h; `a / 0001h = a`
and `0000h / b = 0000h` in every reading; else the open parameter (log 2). -/
def divQuot (a b : Word) : Word :=
  if bothPositive a b then a / b
  else if b = 1#16 then a
  else if a = 0#16 then 0#16
  else Config.divQuot a b

/-- DivSem.rem (42_muldiv R142, R146), for a non-zero divisor: `a - b * floor(a / b)` where both are below 8000h;
`a % 0001h = 0000h` in every reading; else the open parameter (log 2). -/
def divRem (a b : Word) : Word :=
  if bothPositive a b then a % b
  else if b = 1#16 then 0#16
  else Config.divRem a b

/-- The upper word of MulLongSem (42_muldiv R143): that of the product where both operands are below 8000h, else the
open parameter (log 2). -/
def mulHigh (a b : Word) : Word :=
  if bothPositive a b then BitVec.ofNat 16 (a.toNat * b.toNat / 65536) else Config.mulLongHigh a b

/-- The fixed range of DivLongSem (42_muldiv R144): dividend below 80000000h, divisor below 8000h, quotient at most
7FFFh. -/
def divLongFixed (n : BitVec 32) (b : Word) : Bool :=
  !n.msb && !b.msb && decide (n.toNat / b.toNat ≤ 0x7FFF)

/-- The quotient of DivLongSem (42_muldiv R144, R146; log 2). -/
def divLongQuot (n : BitVec 32) (b : Word) : Word :=
  if divLongFixed n b then BitVec.ofNat 16 (n.toNat / b.toNat) else (Config.divLong n b).1

/-- The remainder of DivLongSem (42_muldiv R144, R146; log 2). -/
def divLongRem (n : BitVec 32) (b : Word) : Word :=
  if divLongFixed n b then BitVec.ofNat 16 (n.toNat % b.toNat) else (Config.divLong n b).2

/-- Rd+1 of a register pair (42_muldiv R143, R144; 30_encoding R102). -/
def pairHigh : Reg → Option Reg
  | .g0 => some .g1
  | .g2 => some .g3
  | .g4 => some .g5
  | .g6 => some .g7
  | .g8 => some .g9
  | .g10 => some .g11
  | _ => none

/-- The frame of DIV and MOD (42_muldiv R141, R142): the zero test after the operand is read (R145), and Rd and the
flags free where it traps (R145; log 7). -/
def State.divOp (s : State) (rd : Reg) (src : Src) (result : Word → Word → Word) : Result :=
  if s.operand src = .ok 0#16 then (s.drawResult rd).takeFault .zeroDivide (srcLen src)
  else s.aluOp rd src result (fun _ _ d => d)

/-- MUL (R140). -/
def execMul (rd : Reg) (src : Src) (s : State) : Result := s.aluOp rd src (fun a b => a * b) (fun _ _ d => d)

/-- DIV (R141). -/
def execDiv (rd : Reg) (src : Src) (s : State) : Result := s.divOp rd src divQuot

/-- MOD (R142). -/
def execMod (rd : Reg) (src : Src) (s : State) : Result := s.divOp rd src divRem

/-- The two registers and the flags of MULL and DIVL, written together; the flags are draws. -/
def State.writePair (s : State) (rd hi : Reg) (lo up : Word) : State :=
  ((((s.setReg rd lo).setReg hi up).setCond (Config.flagDraw s.tick)).nextDraw)

/-- MULL (R143): the product in (Rd+1, Rd), upper word in Rd+1. An Rd that is no pair is refused (30_encoding R102). -/
def execMull (rd : Reg) (src : Src) (s : State) : Result :=
  match pairHigh rd with
  | none => .refused .registerPair
  | some hi =>
    match s.operand src with
    | .error x => (s.drawPair rd hi).takeFault x (srcLen src)
    | .ok b => .next ((s.writePair rd hi (s.reg rd * b) (mulHigh (s.reg rd) b)).advance (srcLen src))

/-- DIVL (R144): the pair (Rd+1, Rd) divided, quotient in Rd, remainder in Rd+1. -/
def execDivl (rd : Reg) (src : Src) (s : State) : Result :=
  match pairHigh rd with
  | none => .refused .registerPair
  | some hi =>
    match s.operand src with
    | .error x => (s.drawPair rd hi).takeFault x (srcLen src)
    | .ok b =>
      if b = 0#16 then (s.drawPair rd hi).takeFault .zeroDivide (srcLen src)
      else
        .next ((s.writePair rd hi (divLongQuot (s.reg hi ++ s.reg rd) b)
          (divLongRem (s.reg hi ++ s.reg rd) b)).advance (srcLen src))

end Sys2Proof.Machine
end

