-- ==== Sys2Proof/Machine/Shift.lean ====
section
/-! DEFINITION. SHLA, SHLL, SHRA, SHRL (43_shift). The count is the whole unsigned operand (R150; log 44). -/

namespace Sys2Proof.Machine

/-- A shift: the given result for counts of 0 to 15, ShiftSem for more (43_shift R150; log 3). -/
def shiftBy (op : ShiftOp) (f : Word → Nat → Word) (a n : Word) : Word :=
  if n.toNat ≤ 15 then f a n.toNat else Config.shiftSem op a n

/-- The result of SHLA (R151). -/
def shlaResult (a n : Word) : Word := shiftBy .shla (fun x k => x <<< k) a n

/-- The result of SHLL (R152). -/
def shllResult (a n : Word) : Word := shiftBy .shll (fun x k => x <<< k) a n

/-- The result of SHRA (R153): copies of bit 15 enter. -/
def shraResult (a n : Word) : Word := shiftBy .shra (fun x k => x.sshiftRight k) a n

/-- The result of SHRL (R154): zeros enter. -/
def shrlResult (a n : Word) : Word := shiftBy .shrl (fun x k => x >>> k) a n

/-- SHLA (R151). -/
def execShla (rd : Reg) (src : Src) (s : State) : Result :=
  s.aluOp rd src shlaResult (fun a n d => shiftCond (shlaResult a n) n d)

/-- SHLL (R152). -/
def execShll (rd : Reg) (src : Src) (s : State) : Result :=
  s.aluOp rd src shllResult (fun a n d => shiftCond (shllResult a n) n d)

/-- SHRA (R153). -/
def execShra (rd : Reg) (src : Src) (s : State) : Result :=
  s.aluOp rd src shraResult (fun a n d => shiftCond (shraResult a n) n d)

/-- SHRL (R154). -/
def execShrl (rd : Reg) (src : Src) (s : State) : Result :=
  s.aluOp rd src shrlResult (fun a n d => shiftCond (shrlResult a n) n d)

end Sys2Proof.Machine
end

