-- ==== Sys2Proof/Machine/System.lean ====
section
/-! DEFINITION. EI, DI, SVC, HALT (47_system). -/

namespace Sys2Proof.Machine

/-- A privileged instruction: PrivViolation with none of its effects, or the effect (47_system R196; log 6, 11). -/
def State.privileged (s : State) (x : PrivOp) (effect : State) : Result :=
  if s.denied x then s.takeFault .privViolation 2#16 else .next (effect.advance 2#16)

/-- EI (R192). -/
def execEi (s : State) : Result := s.privileged .ei (s.setFlags { s.flag with e := true })

/-- DI (R193). -/
def execDi (s : State) : Result := s.privileged .di (s.setFlags { s.flag with e := false })

/-- SVC (R194): trap entry through FFFEh with the address of the next instruction saved. -/
def execSvc (s : State) : Result := s.trapEntry Exc.svc.vector (s.pc + 2#16)

/-- HALT (R195; pc is that of the next instruction, D37, log 34). -/
def execHalt (s : State) : Result := s.privileged .halt { s with halted := true }

end Sys2Proof.Machine
end

