-- ==== Sys2Proof/WellFormed.lean ====
section
/-! DEFINITION. Well-formed instructions: the operand checks that the operand types do not already make. -/

namespace Sys2Proof

/-- The registers MULL and DIVL take as Rd: G0, G2, G4, G6, G8, G10 (30_encoding R102). -/
def Reg.evenPair : Reg → Bool
  | .g0 | .g2 | .g4 | .g6 | .g8 | .g10 => true
  | _ => false

/-- The checks of the spec on the operands of one instruction: the register pair of MULL and DIVL
(30_encoding R102), and that PUSH and POP do not name SP itself (46_stack_return R186, R187). A register number
Fh (10_state R25) and a mode an instruction does not admit (30_encoding R103) cannot be written in `Instr`. -/
def Instr.wf : Instr → Bool
  | .mull rd _ | .divl rd _ => rd.evenPair
  | .push rd | .pop rd => rd != .sp
  | _ => true

end Sys2Proof
end

