-- ==== Sys2Proof/Decode.lean ====
section
/-! DEFINITION. The decoder, total on any bytes and rejecting by name, and after it the encoder, both from the tables of
30_encoding (R80-R103). -/

namespace Sys2Proof

open Sys2Proof.Machine (hiByte loByte joinBytes)

/-- Why a word is no instruction that the spec gives a meaning. -/
inductive DecodeErr where
  /-- fewer bytes than the instruction has -/
  | truncated
  /-- a blank cell of the opcode map: UndefinedInstruction (30_encoding R99) -/
  | undefinedOpcode
  /-- a non-zero must-be-zero field (30_encoding R100) -/
  | mustBeZero
  /-- jump condition Dh (30_encoding R101) -/
  | blankCondition
  /-- Rd of MULL or DIVL (30_encoding R102) -/
  | registerPair
  /-- register number Fh in a used field (10_state R25) -/
  | pcOperand
  /-- PUSH or POP of SP (46_stack_return R186, R187) -/
  | stackPointerOperand
deriving DecidableEq, Repr

/-- The fields of the first word (30_encoding R80, R81): `rx` is Rx, Rs, D4 or I4. -/
structure Fields where
  op5 : BitVec 5
  mode : BitVec 3
  rd : BitVec 4
  rx : BitVec 4
deriving DecidableEq, Repr

/-- Bits 15:11, 10:8, 7:4 and 3:0 of the first word (30_encoding R80, R81). -/
def Fields.ofWord (w : Word) : Fields :=
  { op5 := w.extractLsb' 11 5, mode := w.extractLsb' 8 3, rd := w.extractLsb' 4 4, rx := w.extractLsb' 0 4 }

/-- The first word with the given fields (30_encoding R80, R81). -/
def Fields.word (f : Fields) : Word := f.op5 ++ f.mode ++ f.rd ++ f.rx

/-- The opcode map (30_encoding R98): for each `op5` the modes whose cell is not blank; bit m is column m. -/
def opcodeModes (op5 : BitVec 5) : BitVec 8 :=
  match op5.toNat with
  | 0 => 0b00000001#8                                               -- NO
  | 1 => 0b11111111#8                                               -- LD
  | 2 => 0b11011011#8                                               -- ST, and LD Rd,FLAG in column 4
  | 3 | 4 | 5 | 6 | 7 | 8 | 9 | 10 | 11 | 12 | 13 | 14 => 0b11111111#8  -- ADD ... DIVL
  | 16 | 17 | 18 | 19 => 0b11111111#8                               -- SHLA SHLL SHRA SHRL
  | 20 | 21 => 0b01000011#8                                         -- jumps, CALL
  | 22 | 23 => 0b11000001#8                                         -- IN, OUT
  | 24 | 26 | 28 => 0b00010001#8                                    -- PUSH POP, RET RETI, EI DI
  | 30 => 0b00000001#8                                              -- SVC
  | 31 => 0b10000000#8                                              -- HALT
  | _ => 0#8

/-- The cell of the opcode map is not blank (30_encoding R98, R99). -/
def opDefined (op5 : BitVec 5) (mode : BitVec 3) : Bool := (opcodeModes op5).getLsbD mode.toNat

/-- The instruction has an effective address (30_encoding R81, R82): rows 00001 to 01110 and 10000 to 10111. (In row
00010 the cell of `LD Rd,FLAG`, which has none, is in column 4, where the length does not depend on it.) -/
def hasEa (op5 : BitVec 5) : Bool :=
  (1 ≤ op5.toNat && op5.toNat ≤ 14) || (16 ≤ op5.toNat && op5.toNat ≤ 23)

/-- The instruction has a second word: modes 0, 1 and 2 of the instructions with an effective address
(30_encoding R82). -/
def hasSecondWord (f : Fields) : Bool := hasEa f.op5 && f.mode.toNat ≤ 2

/-- The register number table (10_state R20); Fh is PC and has no meaning as an operand (R25). -/
def Reg.ofBits (b : BitVec 4) : Option Reg :=
  match b.toNat with
  | 0 => some .g0
  | 1 => some .g1
  | 2 => some .g2
  | 3 => some .g3
  | 4 => some .g4
  | 5 => some .g5
  | 6 => some .g6
  | 7 => some .g7
  | 8 => some .g8
  | 9 => some .g9
  | 10 => some .g10
  | 11 => some .g11
  | 12 => some .fp
  | 13 => some .sp
  | 14 => some .usp
  | _ => none

/-- A used register field (10_state R25). -/
def decodeReg (b : BitVec 4) : Except DecodeErr Reg :=
  match Reg.ofBits b with
  | some r => .ok r
  | none => .error .pcOperand

/-- A field drawn `0h` (30_encoding R100). -/
def decodeZero {α : Type} (b : BitVec 4) (a : α) : Except DecodeErr α :=
  if b = 0#4 then .ok a else .error .mustBeZero

/-- A source operand in any of the eight modes (30_encoding R85-R92). -/
def decodeSrc (mode : BitVec 3) (rx : BitVec 4) (w2 : Word) : Except DecodeErr Src :=
  match mode.toNat with
  | 0 => decodeZero rx (.loc (.direct w2))
  | 1 => (decodeReg rx).map fun r => .loc (.indexed w2 r)
  | 2 => decodeZero rx (.imm w2)
  | 3 => .ok (.loc (.fpRel rx))
  | 4 => (decodeReg rx).map .reg
  | 5 => .ok (.imm4 rx)
  | 6 => (decodeReg rx).map fun r => .loc (.indirect r)
  | _ => (decodeReg rx).map fun r => .loc (.byteIndirect r)

/-- The location of ST: modes 0, 1, 3, 6, 7 (30_encoding R103). -/
def decodeLoc (mode : BitVec 3) (rx : BitVec 4) (w2 : Word) : Except DecodeErr Loc :=
  match mode.toNat with
  | 0 => decodeZero rx (.direct w2)
  | 1 => (decodeReg rx).map (.indexed w2)
  | 3 => .ok (.fpRel rx)
  | 6 => (decodeReg rx).map .indirect
  | 7 => (decodeReg rx).map .byteIndirect
  | _ => .error .undefinedOpcode

/-- The target of a jump or CALL: modes 0, 1, 6 (30_encoding R103). -/
def decodeTarget (mode : BitVec 3) (rx : BitVec 4) (w2 : Word) : Except DecodeErr Target :=
  match mode.toNat with
  | 0 => decodeZero rx (.direct w2)
  | 1 => (decodeReg rx).map (.indexed w2)
  | 6 => (decodeReg rx).map .indirect
  | _ => .error .undefinedOpcode

/-- The port of IN and OUT: modes 0, 6, 7 (30_encoding R103). -/
def decodePort (mode : BitVec 3) (rx : BitVec 4) (w2 : Word) : Except DecodeErr Port :=
  match mode.toNat with
  | 0 => decodeZero rx (.direct w2)
  | 6 => (decodeReg rx).map .indirect
  | 7 => (decodeReg rx).map .byteIndirect
  | _ => .error .undefinedOpcode

/-- `OP Rd` and a source operand. -/
def decodeRdSrc (mk : Reg → Src → Instr) (f : Fields) (w2 : Word) : Except DecodeErr Instr :=
  match decodeReg f.rd, decodeSrc f.mode f.rx w2 with
  | .ok rd, .ok src => .ok (mk rd src)
  | .error e, _ => .error e
  | .ok _, .error e => .error e

/-- As `decodeRdSrc`, with Rd of a register pair (30_encoding R102). -/
def decodePairSrc (mk : Reg → Src → Instr) (f : Fields) (w2 : Word) : Except DecodeErr Instr :=
  match decodeReg f.rd, decodeSrc f.mode f.rx w2 with
  | .ok rd, .ok src => if rd.evenPair then .ok (mk rd src) else .error .registerPair
  | .error e, _ => .error e
  | .ok _, .error e => .error e

/-- `OP Rd` and a location. -/
def decodeRdLoc (mk : Reg → Loc → Instr) (f : Fields) (w2 : Word) : Except DecodeErr Instr :=
  match decodeReg f.rd, decodeLoc f.mode f.rx w2 with
  | .ok rd, .ok l => .ok (mk rd l)
  | .error e, _ => .error e
  | .ok _, .error e => .error e

/-- `OP Rd` and a port. -/
def decodeRdPort (mk : Reg → Port → Instr) (f : Fields) (w2 : Word) : Except DecodeErr Instr :=
  match decodeReg f.rd, decodePort f.mode f.rx w2 with
  | .ok rd, .ok p => .ok (mk rd p)
  | .error e, _ => .error e
  | .ok _, .error e => .error e

/-- The *8 format, `OP Rd 0h` (30_encoding R93). -/
def decodeRd (mk : Reg → Instr) (f : Fields) : Except DecodeErr Instr :=
  match decodeReg f.rd with
  | .ok rd => decodeZero f.rx (mk rd)
  | .error e => .error e

/-- PUSH and POP: the *8 format without SP (46_stack_return R186, R187). -/
def decodeStackReg (mk : Reg → Instr) (f : Fields) : Except DecodeErr Instr :=
  match decodeReg f.rd with
  | .ok rd => if rd = .sp then .error .stackPointerOperand else decodeZero f.rx (mk rd)
  | .error e => .error e

/-- The *9 format, `OP 0h 0h` (30_encoding R93). -/
def decodePlain (i : Instr) (f : Fields) : Except DecodeErr Instr :=
  if f.rd = 0#4 then decodeZero f.rx i else .error .mustBeZero

/-- The jump condition field (30_encoding R97); Dh is blank (R101). -/
def decodeJump (f : Fields) (t : Target) : Except DecodeErr Instr :=
  match f.rd.toNat with
  | 0 => .ok (.jz t)
  | 1 => .ok (.jc t)
  | 2 => .ok (.jm t)
  | 3 => .ok (.jo t)
  | 4 => .ok (.jgt t)
  | 5 => .ok (.jge t)
  | 6 => .ok (.jle t)
  | 7 => .ok (.jlt t)
  | 8 => .ok (.jnz t)
  | 9 => .ok (.jnc t)
  | 10 => .ok (.jnm t)
  | 11 => .ok (.jno t)
  | 12 => .ok (.jhi t)
  | 14 => .ok (.jls t)
  | 15 => .ok (.jmp t)
  | _ => .error .blankCondition

/-- CALL: Rd is a must-be-zero field (30_encoding R96, R100). -/
def decodeCall (f : Fields) (t : Target) : Except DecodeErr Instr := decodeZero f.rd (.call t)

/-- The instruction of a first word's fields and a second word, which only the instructions of `hasSecondWord` look at
(30_encoding R98). -/
def decodeFields (f : Fields) (w2 : Word) : Except DecodeErr Instr :=
  if opDefined f.op5 f.mode then
    match f.op5.toNat with
    | 0 => decodePlain .no f
    | 1 => decodeRdSrc .ld f w2
    | 2 => if f.mode = 4#3 then decodeRd .ldFlag f else decodeRdLoc .st f w2
    | 3 => decodeRdSrc .add f w2
    | 4 => decodeRdSrc .sub f w2
    | 5 => decodeRdSrc .cmp f w2
    | 6 => decodeRdSrc .and f w2
    | 7 => decodeRdSrc .or f w2
    | 8 => decodeRdSrc .xor f w2
    | 9 => decodeRdSrc .adds f w2
    | 10 => decodeRdSrc .mul f w2
    | 11 => decodeRdSrc .div f w2
    | 12 => decodeRdSrc .mod f w2
    | 13 => decodePairSrc .mull f w2
    | 14 => decodePairSrc .divl f w2
    | 16 => decodeRdSrc .shla f w2
    | 17 => decodeRdSrc .shll f w2
    | 18 => decodeRdSrc .shra f w2
    | 19 => decodeRdSrc .shrl f w2
    | 20 => (decodeTarget f.mode f.rx w2).bind (decodeJump f)
    | 21 => (decodeTarget f.mode f.rx w2).bind (decodeCall f)
    | 22 => decodeRdPort .inp f w2
    | 23 => decodeRdPort .out f w2
    | 24 => if f.mode = 0#3 then decodeStackReg .push f else decodeStackReg .pop f
    | 26 => if f.mode = 0#3 then decodePlain .ret f else decodePlain .reti f
    | 28 => if f.mode = 0#3 then decodePlain .ei f else decodePlain .di f
    | 30 => decodePlain .svc f
    | 31 => decodePlain .halt f
    | _ => .error .undefinedOpcode
  else .error .undefinedOpcode

/-- The instruction of two words (30_encoding R80-R83). -/
def decode (w1 w2 : Word) : Except DecodeErr Instr := decodeFields (Fields.ofWord w1) w2

/-- The decoder on bytes as they lie in memory (20_memory R55, R56): the instruction and the bytes after it. -/
def decodeBytes : List Byte → Except DecodeErr (Instr × List Byte)
  | b0 :: b1 :: rest =>
    let f := Fields.ofWord (joinBytes b0 b1)
    if opDefined f.op5 f.mode then
      if hasSecondWord f then
        match rest with
        | b2 :: b3 :: rest' => (decodeFields f (joinBytes b2 b3)).map fun i => (i, rest')
        | _ => .error .truncated
      else (decodeFields f 0#16).map fun i => (i, rest)
    else .error .undefinedOpcode
  | _ => .error .truncated

/-- The bytes, as they lie in memory, of an instruction whose bits are `w` in the table's numbering: the first word is
bits 15:0, the second bits 31:16. -/
def tableBytes (w : Nat) : List Byte :=
  let w1 : Word := BitVec.ofNat 16 w
  let w2 : Word := BitVec.ofNat 16 (w / 65536)
  [hiByte w1, loByte w1, hiByte w2, loByte w2]

/-- What the decoder reads from an instruction whose `nbits` bits are `w` in the numbering of spec/opcode_table.json. -/
def decodeTableWord (nbits w : Nat) : Option Instr :=
  match decodeBytes (tableBytes (w % 2 ^ nbits)) with
  | .ok (i, _) => some i
  | .error _ => none

/-- The number of a register (10_state R20). -/
def Reg.bits : Reg → BitVec 4
  | .g0 => 0#4
  | .g1 => 1#4
  | .g2 => 2#4
  | .g3 => 3#4
  | .g4 => 4#4
  | .g5 => 5#4
  | .g6 => 6#4
  | .g7 => 7#4
  | .g8 => 8#4
  | .g9 => 9#4
  | .g10 => 10#4
  | .g11 => 11#4
  | .fp => 12#4
  | .sp => 13#4
  | .usp => 14#4

/-- Mode, low field and second word of a location (30_encoding R84). -/
def encodeLoc : Loc → BitVec 3 × BitVec 4 × Option Word
  | .direct d => (0#3, 0#4, some d)
  | .indexed d r => (1#3, r.bits, some d)
  | .fpRel d4 => (3#3, d4, none)
  | .indirect r => (6#3, r.bits, none)
  | .byteIndirect r => (7#3, r.bits, none)

/-- Mode, low field and second word of a source operand (30_encoding R84). -/
def encodeSrc : Src → BitVec 3 × BitVec 4 × Option Word
  | .loc l => encodeLoc l
  | .imm v => (2#3, 0#4, some v)
  | .reg r => (4#3, r.bits, none)
  | .imm4 i4 => (5#3, i4, none)

/-- Mode, low field and second word of a jump target (30_encoding R84). -/
def encodeTarget : Target → BitVec 3 × BitVec 4 × Option Word
  | .direct d => (0#3, 0#4, some d)
  | .indexed d r => (1#3, r.bits, some d)
  | .indirect r => (6#3, r.bits, none)

/-- Mode, low field and second word of a port (30_encoding R84). -/
def encodePort : Port → BitVec 3 × BitVec 4 × Option Word
  | .direct d => (0#3, 0#4, some d)
  | .indirect r => (6#3, r.bits, none)
  | .byteIndirect r => (7#3, r.bits, none)

/-- The fields and the second word of an instruction with an operand in the `EA` part. -/
def encodeEa (op5 : BitVec 5) (rd : BitVec 4) (ea : BitVec 3 × BitVec 4 × Option Word) : Fields × Option Word :=
  ({ op5 := op5, mode := ea.1, rd := rd, rx := ea.2.1 }, ea.2.2)

/-- The fields and the second word of an instruction without one (30_encoding R93). -/
def encodeOther (op5 : BitVec 5) (mode : BitVec 3) (rd : BitVec 4) : Fields × Option Word :=
  ({ op5 := op5, mode := mode, rd := rd, rx := 0#4 }, none)

/-- The fields of the first word and the second word (30_encoding R97, R98). -/
def encodeFields : Instr → Fields × Option Word
  | .no => encodeOther 0b00000#5 0#3 0#4
  | .ld rd src => encodeEa 0b00001#5 rd.bits (encodeSrc src)
  | .ldFlag rd => encodeOther 0b00010#5 4#3 rd.bits
  | .st rd l => encodeEa 0b00010#5 rd.bits (encodeLoc l)
  | .add rd src => encodeEa 0b00011#5 rd.bits (encodeSrc src)
  | .sub rd src => encodeEa 0b00100#5 rd.bits (encodeSrc src)
  | .cmp rd src => encodeEa 0b00101#5 rd.bits (encodeSrc src)
  | .and rd src => encodeEa 0b00110#5 rd.bits (encodeSrc src)
  | .or rd src => encodeEa 0b00111#5 rd.bits (encodeSrc src)
  | .xor rd src => encodeEa 0b01000#5 rd.bits (encodeSrc src)
  | .adds rd src => encodeEa 0b01001#5 rd.bits (encodeSrc src)
  | .mul rd src => encodeEa 0b01010#5 rd.bits (encodeSrc src)
  | .div rd src => encodeEa 0b01011#5 rd.bits (encodeSrc src)
  | .mod rd src => encodeEa 0b01100#5 rd.bits (encodeSrc src)
  | .mull rd src => encodeEa 0b01101#5 rd.bits (encodeSrc src)
  | .divl rd src => encodeEa 0b01110#5 rd.bits (encodeSrc src)
  | .shla rd src => encodeEa 0b10000#5 rd.bits (encodeSrc src)
  | .shll rd src => encodeEa 0b10001#5 rd.bits (encodeSrc src)
  | .shra rd src => encodeEa 0b10010#5 rd.bits (encodeSrc src)
  | .shrl rd src => encodeEa 0b10011#5 rd.bits (encodeSrc src)
  | .jz t => encodeEa 0b10100#5 0x0#4 (encodeTarget t)
  | .jc t => encodeEa 0b10100#5 0x1#4 (encodeTarget t)
  | .jm t => encodeEa 0b10100#5 0x2#4 (encodeTarget t)
  | .jo t => encodeEa 0b10100#5 0x3#4 (encodeTarget t)
  | .jgt t => encodeEa 0b10100#5 0x4#4 (encodeTarget t)
  | .jge t => encodeEa 0b10100#5 0x5#4 (encodeTarget t)
  | .jle t => encodeEa 0b10100#5 0x6#4 (encodeTarget t)
  | .jlt t => encodeEa 0b10100#5 0x7#4 (encodeTarget t)
  | .jnz t => encodeEa 0b10100#5 0x8#4 (encodeTarget t)
  | .jnc t => encodeEa 0b10100#5 0x9#4 (encodeTarget t)
  | .jnm t => encodeEa 0b10100#5 0xA#4 (encodeTarget t)
  | .jno t => encodeEa 0b10100#5 0xB#4 (encodeTarget t)
  | .jhi t => encodeEa 0b10100#5 0xC#4 (encodeTarget t)
  | .jls t => encodeEa 0b10100#5 0xE#4 (encodeTarget t)
  | .jmp t => encodeEa 0b10100#5 0xF#4 (encodeTarget t)
  | .call t => encodeEa 0b10101#5 0#4 (encodeTarget t)
  | .inp rd p => encodeEa 0b10110#5 rd.bits (encodePort p)
  | .out rd p => encodeEa 0b10111#5 rd.bits (encodePort p)
  | .push rd => encodeOther 0b11000#5 0#3 rd.bits
  | .pop rd => encodeOther 0b11000#5 4#3 rd.bits
  | .ret => encodeOther 0b11010#5 0#3 0#4
  | .reti => encodeOther 0b11010#5 4#3 0#4
  | .ei => encodeOther 0b11100#5 0#3 0#4
  | .di => encodeOther 0b11100#5 4#3 0#4
  | .svc => encodeOther 0b11110#5 0#3 0#4
  | .halt => encodeOther 0b11111#5 7#3 0#4

/-- The words of an instruction (30_encoding R80). -/
def encode (i : Instr) : List Word := (encodeFields i).1.word :: (encodeFields i).2.toList

/-- The bytes of an instruction as they lie in memory (20_memory R55, R56). -/
def encodeBytes (i : Instr) : List Byte := (encode i).flatMap fun w => [hiByte w, loByte w]

end Sys2Proof
end

