-- ==== Sys2Proof/Machine/Device.lean ====
section
/-! DEFINITION. What happens between instructions: the devices (60_exceptions R203-R205, R229; 92_eei_decisions D32) and the
acceptance of a device interrupt (60_exceptions R206, R210). -/

namespace Sys2Proof.Machine

/-- Bit I of a timer control word `I000 0000 0000 000S` (60_exceptions R223; log 30). -/
def timerEnabled (ctrl : Word) : Bool := ctrl.getLsbD 15

/-- The sources that may request an interrupt, bit n for vector n (60_exceptions R203). The ADC has no enable bit. -/
def State.irqEnabled (s : State) : BitVec 10 :=
  1#1 ++ BitVec.ofBool (s.out.usdCtrl.getLsbD 3) ++
    BitVec.ofBool s.out.tecCtrl.t ++ BitVec.ofBool s.out.tecCtrl.r ++
    BitVec.ofBool s.out.ft232rlCtrl.t ++ BitVec.ofBool s.out.ft232rlCtrl.r ++
    BitVec.ofBool s.out.rn4020Ctrl.t ++ BitVec.ofBool s.out.rn4020Ctrl.r ++
    BitVec.ofBool (timerEnabled s.out.timer1Ctrl) ++ BitVec.ofBool (timerEnabled s.out.timer0Ctrl)

/-- A byte that the uSD controller writes: any byte that is Writable (60_exceptions R229; log 15, 33). -/
def State.agentWrite (s : State) (c : Word × Byte) : State := if writable c.1 then s.setByte c.1 c.2 else s

/-- The bytes that the uSD controller writes, in order. -/
def State.agentWrites (s : State) : List (Word × Byte) → State
  | [] => s
  | c :: rest => (s.agentWrite c).agentWrites rest

/-- The uSD transfer in flight moves on: a READ may write memory, and either may end (60_exceptions R229; log 33). -/
def State.usdStep (s : State) : State :=
  match s.usd with
  | none => s
  | some x =>
    { (if x.toMemory then s.agentWrites (Config.usdWrites s.tick x) else s) with
      usd := if Config.usdDone s.tick then none else some x }

/-- The devices at an instruction boundary: the uSD transfer, new input ports, new requests of the sources that are
enabled; requests already up stay up (60_exceptions R204, R206, R210; log 24, 31). -/
def State.boundary (s : State) : State :=
  { s.usdStep with
    inp := Config.deviceInputs s.tick,
    pending := s.pending ||| (Config.deviceRequests s.tick &&& s.irqEnabled),
    tick := s.tick + 1 }

/-- A device interrupt is accepted at this boundary (60_exceptions R206). -/
def State.accepts (s : State) : Bool := s.flag.e && s.pending != 0#10

/-- The lowest pending source. -/
def lowestPending (b : BitVec 10) : List Nat → Nat
  | [] => 0
  | n :: rest => if b.getLsbD n then n else lowestPending b rest

/-- The pending source that is taken: the open choice if it is pending, else the lowest pending one, so that the choice
is any of the pending sources (60_exceptions R210; log 32). -/
def State.irqTaken (s : State) : Nat :=
  if s.pending.getLsbD (Config.irqChoice s.tick).val then (Config.irqChoice s.tick).val
  else lowestPending s.pending (List.range 10)

/-- The request of the accepted source: it may be cleared by the acceptance or stay up (60_exceptions R204; log 31). -/
def State.irqCleared (s : State) : BitVec 10 :=
  if Config.irqKept s.tick then s.pending else s.pending &&& ~~~(1#10 <<< s.irqTaken)

/-- Acceptance: trap entry for the source taken, with the current PC saved (60_exceptions R206). -/
def State.acceptInterrupt (s : State) : Result :=
  ((s.setPending s.irqCleared).nextDraw).trapEntry (BitVec.ofNat 4 s.irqTaken) s.pc

end Sys2Proof.Machine
end

