-- ==== Sys2Proof/Machine/Fetch.lean ====
section
/-! DEFINITION. Instruction fetch (10_state R27, 20_memory R56, R57, 30_encoding R82) and what a step does with each outcome
of it. -/

namespace Sys2Proof.Machine

/-- What fetch comes to. -/
inductive Fetched where
  | instr (i : Instr)
  /-- the fetch of the first word raised an exception (20_memory R57, R62) -/
  | raises (x : Exc)
  /-- the fetch of the second word did; the first one was `w1` -/
  | raisesSecond (w1 : Word) (x : Exc)
  /-- the bytes are no instruction, and why -/
  | rejected (e : DecodeErr)
deriving DecidableEq, Repr

/-- The outcome of decoding. -/
def Fetched.ofDecode : Except DecodeErr Instr → Fetched
  | .ok i => .instr i
  | .error e => .rejected e

/-- Fetch at PC (20_memory R56): the first word; then, if it begins an instruction that has a second word, that at PC + 2.
A first word that is no instruction, or that the spec refuses (30_encoding R99-R102, 10_state R25), is rejected as it
stands and no second word is fetched, so it is rejected also where that fetch would fault: the spec gives no order of the
two (DESIGN CHOICE, log 17). The fetch of the second word comes before the privilege check: IN and OUT with a second word, in
user mode without I, report the fetch's MemProtViolation and no PrivViolation where that fetch is rejected. The order of
60_exceptions R210 begins with the privilege check and does not place this fetch (DESIGN CHOICE, log 9). -/
def State.fetch (s : State) : Fetched :=
  match s.loadWord .fetch s.pc with
  | .error x => .raises x
  | .ok w1 =>
    match decode w1 0#16 with
    | .error e => .rejected e
    | .ok i =>
      if hasSecondWord (Fields.ofWord w1) then
        match s.loadWord .fetch (s.pc + 2#16) with
        | .error x => .raisesSecond w1 x
        | .ok w2 => Fetched.ofDecode (decode w1 w2)
      else .instr i

/-- A word that is no instruction: UndefinedInstruction for a blank cell of the opcode map (30_encoding R99), whose
length, and so saved PC, is open (log 8); the other forms are refused by name (30_encoding R100-R102, 10_state R25). -/
def State.reject (s : State) : DecodeErr → Result
  | .undefinedOpcode => s.takeFault .undefinedInstruction 4#16
  | .truncated => s.takeFault .undefinedInstruction 4#16
  | .mustBeZero => .refused .mustBeZero
  | .blankCondition => .refused .blankCondition
  | .registerPair => .refused .registerPair
  | .pcOperand => .refused .pcOperand
  | .stackPointerOperand => .refused .stackPointerOperand

/-- A fetch of the first word that raises an exception: no instruction is known, so none has written anything; the saved PC
is open (60_exceptions R201, R202; log 9). -/
def State.fetchFault (s : State) (x : Exc) : Result := s.takeFault x 4#16

/-- What an instruction of two words leaves whose second word could not be fetched: free values in all that it writes, of
OUT the registers of a port or of the MMU (60_exceptions R202, 45_io R181; log 7, 9). An instruction of one word has no such
fault. -/
def State.drawWrites (s : State) : Instr → State
  | .ld rd _ => s.drawReg rd 0
  | .inp rd _ => s.drawIn rd
  | .st _ l => s.drawStore (isByteLoc l) (s.effAddr l)
  | .add rd _ | .sub rd _ | .and rd _ | .or rd _ | .xor rd _ | .adds rd _ => s.drawResult rd
  | .mul rd _ | .div rd _ | .mod rd _ => s.drawResult rd
  | .shla rd _ | .shll rd _ | .shra rd _ | .shrl rd _ => s.drawResult rd
  | .cmp _ _ => s.drawCond
  | .mull rd _ | .divl rd _ =>
    match pairHigh rd with
    | some hi => s.drawPair rd hi
    | none => s
  | .call _ => s.drawPush
  | .jz _ | .jc _ | .jm _ | .jo _ | .jgt _ | .jge _ | .jle _ | .jlt _ => s
  | .jnz _ | .jnc _ | .jnm _ | .jno _ | .jhi _ | .jls _ | .jmp _ => s
  | .out _ p => s.drawOut (portByte p)
  | .no | .ldFlag _ | .push _ | .pop _ | .ret | .reti | .ei | .di | .svc | .halt => s

/-- A fetch of the second word that raises an exception: the instruction that the first word begins, with a free second
word, leaves free values in all that it writes (60_exceptions R202; log 7, 9). -/
def State.fetchFaultSecond (s : State) (w1 : Word) (x : Exc) : Result :=
  match decode w1 (Config.faultWord s.tick 2) with
  | .ok i => (s.drawWrites i).takeFault x 4#16
  | .error _ => s.takeFault x 4#16

/-- The devices act after an instruction or a trap entry. -/
def atBoundary : Result → Result
  | .next t => .next t.boundary
  | .fault f => .fault f
  | .refused r => .refused r

/-- The bytes of a program placed in memory from outside the machine (log 36). -/
def State.placeBytes (s : State) (a : Word) : List Byte → State
  | [] => s
  | b :: rest => (s.setByte a b).placeBytes (a + 1#16) rest

end Sys2Proof.Machine
end

