-- ==== Sys2Proof/Machine/Step.lean ====
section
/-! DEFINITION. One step of the machine: an accepted interrupt, or one instruction, and then the devices (60_exceptions R206).
-/

namespace Sys2Proof.Machine

/-- One step. A halted machine stays as it is: `halted` is the end of the run, no fault (47_system R195, 93 U28;
log 34). -/
def step (s : State) : Host.Outcome State Fault Refusal :=
  if s.halted then .next s
  else
    atBoundary
      (if s.accepts then s.acceptInterrupt
      else
        match s.fetch with
        | .instr i => exec i s
        | .raises x => s.fetchFault x
        | .raisesSecond w1 x => s.fetchFaultSecond w1 x
        | .rejected e => s.reject e)

/-- `s` with the instruction of spec/opcode_table.json's bits `w` stored at PC, where the next step fetches: its four
bytes in memory order (log 36). -/
def State.withFetchWord (s : State) (nbits w : Nat) : State := s.placeBytes s.pc (tableBytes (w % 2 ^ nbits))

end Sys2Proof.Machine
end

