-- ==== Sys2Proof/Safety.lean ====
section
/-! DEFINITION. The terms claims about the machine are stated in: what stays the same, what trap entry leaves, and the
invariant of every state. -/

namespace Sys2Proof.Machine

/-- Every stored register but those listed is unchanged. -/
def RegsSameBut (s t : State) (ps : List PReg) : Prop := ∀ p, p ∉ ps → t.regs.get p = s.regs.get p

/-- Every byte of memory is unchanged. -/
def MemSame (s t : State) : Prop := ∀ a, t.byteAt a = s.byteAt a

/-- Every byte of memory but those listed is unchanged. -/
def MemSameBut (s t : State) (as : List Word) : Prop := ∀ a, a ∉ as → t.byteAt a = s.byteAt a

/-- E, P and I are unchanged. -/
def ModeSame (s t : State) : Prop := t.flag.e = s.flag.e ∧ t.flag.p = s.flag.p ∧ t.flag.i = s.flag.i

/-- V, C, S and Z are unchanged. -/
def CondSame (s t : State) : Prop :=
  t.flag.v = s.flag.v ∧ t.flag.c = s.flag.c ∧ t.flag.s = s.flag.s ∧ t.flag.z = s.flag.z

/-- Everything outside registers, PC, FLAG and memory is unchanged: the MMU, the pending bits, `halted`, every device
register, the uSD transfer and the record of I/O writes (not `tick`, the model's own). -/
def DevicesSame (s t : State) : Prop :=
  t.mmuEn = s.mmuEn ∧ t.mmuBase = s.mmuBase ∧ t.mmuLimit = s.mmuLimit ∧ t.pending = s.pending ∧
    t.halted = s.halted ∧ t.mode = s.mode ∧ t.inp = s.inp ∧ t.out = s.out ∧ t.usd = s.usd ∧ t.ioLog = s.ioLog

/-- The frame of an instruction that writes the listed registers, and may write V, C, S, Z and PC. -/
def WritesOnly (s t : State) (ps : List PReg) : Prop :=
  RegsSameBut s t ps ∧ ModeSame s t ∧ MemSame s t ∧ DevicesSame s t

/-- The four bytes of the frame that trap entry pushes (60_exceptions R208). -/
def trapFrameBytes (s : State) : List Word :=
  [s.regs.ssp - 1#16, s.regs.ssp - 2#16, s.regs.ssp - 3#16, s.regs.ssp - 4#16]

/-- Memory after the two pushes of trap entry with the MMU off (60_exceptions R208). -/
def trapPushed (s : State) (spc : Word) : State :=
  (s.setWord (s.regs.ssp - 2#16) spc).setWord (s.regs.ssp - 4#16) s.flag.toWord

/-- Trap entry through vector `n` with the saved PC `spc` completes: MMU off, SSP even, its frame Writable, an
even handler address in the vector (60_exceptions R213 names what is excluded). -/
def TrapReady (s : State) (n : BitVec 4) (spc : Word) : Prop :=
  s.mmuEn = false ∧ isOdd s.regs.ssp = false ∧ writable (s.regs.ssp - 2#16) = true ∧
    writable (s.regs.ssp - 4#16) = true ∧ isOdd ((trapPushed s spc).wordAt (vectorAddr n)) = false

/-- `t` is `s` after trap entry through vector `n` with the saved PC `spc` (60_exceptions R208): what is saved, what
changes, and that nothing else does. -/
def TrapTaken (s t : State) (n : BitVec 4) (spc : Word) : Prop :=
  t.wordAt (s.regs.ssp - 2#16) = spc ∧ t.wordAt (s.regs.ssp - 4#16) = s.flag.toWord ∧
    t.regs.ssp = s.regs.ssp - 4#16 ∧ t.flag.p = true ∧ t.flag.e = false ∧ t.flag.i = s.flag.i ∧ CondSame s t ∧
    t.pc = t.wordAt (vectorAddr n) ∧
    RegsSameBut s t [.ssp] ∧ MemSameBut s t (trapFrameBytes s) ∧ DevicesSame s t

/-- `r` is what a trap through vector `n` with the saved PC `spc`, raised in `s` with the MMU off, comes to: trap entry where
it is ready (60_exceptions R208), and else a refusal, since the spec gives a fault in trap entry no meaning (R213; log
13, 15). -/
def TrapOutcome (s : State) (n : BitVec 4) (spc : Word) (r : Result) : Prop :=
  (TrapReady s n spc → ∃ t, r = .next t ∧ TrapTaken s t n spc) ∧
    (¬ TrapReady s n spc → r = .refused .trapEntryFault ∨ r = .refused .romWrite)

/-- `u` is `s` after trap entry through vector `n`, wherever the MMU puts its accesses (60_exceptions R208): the new SSP
and FLAG, the old FLAG on top of the frame, PC from the vector word. -/
def TrapEntered (s u : State) (n : BitVec 4) : Prop :=
  u.regs.ssp = s.regs.ssp - 4#16 ∧ u.flag.p = true ∧ u.flag.e = false ∧ u.flag.i = s.flag.i ∧ CondSame s u ∧
    (∃ q, u.check .trapPush false u.regs.ssp = .ok q ∧ u.wordAt q = s.flag.toWord) ∧
    u.loadWord .vectorFetch (vectorAddr n) = .ok u.pc

/-- The step from `s` to `t` ended in trap entry, and then the devices acted. `s'` is `s` with what an instruction that
faults leaves free; E, P and I are not among that, and in user mode SSP is not (60_exceptions R202). -/
def EntersTrap (s t : State) : Prop :=
  ∃ s' u n, ModeSame s s' ∧ (s.flag.p = false → s'.regs.ssp = s.regs.ssp) ∧ TrapEntered s' u n ∧ t = u.boundary

/-- The three candidates for the saved PC of a fault of an instruction of `len` bytes (60_exceptions R202). -/
def SavedPc (s : State) (len spc : Word) : Prop := spc = s.pc ∨ spc = s.pc + 2#16 ∨ spc = s.pc + len

/-- The blank cells of the opcode map, as 30_encoding R99 lists them. -/
def blankOpcodes : List Byte :=
  [0x01, 0x02, 0x03, 0x04, 0x05, 0x06, 0x07, 0x12, 0x15,
   0x78, 0x79, 0x7A, 0x7B, 0x7C, 0x7D, 0x7E, 0x7F, 0xA2, 0xA3, 0xA4, 0xA5, 0xA7, 0xAA, 0xAB, 0xAC, 0xAD, 0xAF,
   0xB1, 0xB2, 0xB3, 0xB4, 0xB5, 0xB9, 0xBA, 0xBB, 0xBC, 0xBD, 0xC1, 0xC2, 0xC3, 0xC5, 0xC6, 0xC7,
   0xC8, 0xC9, 0xCA, 0xCB, 0xCC, 0xCD, 0xCE, 0xCF, 0xD1, 0xD2, 0xD3, 0xD5, 0xD6, 0xD7,
   0xD8, 0xD9, 0xDA, 0xDB, 0xDC, 0xDD, 0xDE, 0xDF, 0xE1, 0xE2, 0xE3, 0xE5, 0xE6, 0xE7,
   0xE8, 0xE9, 0xEA, 0xEB, 0xEC, 0xED, 0xEE, 0xEF, 0xF1, 0xF2, 0xF3, 0xF4, 0xF5, 0xF6, 0xF7,
   0xF8, 0xF9, 0xFA, 0xFB, 0xFC, 0xFD, 0xFE]

/-- A first word with a field that the spec refuses, in a defined opcode: a must-be-zero field that is not zero (Rx of Direct
and Immediate, Rx of *8, Rd and Rx of *9, Rd of CALL: 30_encoding R100), condition Dh (R101), register Fh in Rd or in Rx
(10_state R25), an Rd of MULL or DIVL that is no pair (R102), PUSH or POP of SP (46_stack_return R186, R187). -/
def RefusedWord (w : Word) : Prop :=
  ((Fields.ofWord w).mode = 0#3 ∨ (Fields.ofWord w).mode = 2#3) ∧ (Fields.ofWord w).rx ≠ 0#4 ∨
    hiByte w ∈ [0x14#8, 0xC0#8, 0xC4#8] ∧ (Fields.ofWord w).rx ≠ 0#4 ∨
    hiByte w ∈ [0x00#8, 0xD0#8, 0xD4#8, 0xE0#8, 0xE4#8, 0xF0#8, 0xFF#8] ∧ loByte w ≠ 0#8 ∨
    hiByte w ∈ [0xA8#8, 0xA9#8, 0xAE#8] ∧ (Fields.ofWord w).rd ≠ 0#4 ∨
    hiByte w ∈ [0xA0#8, 0xA1#8, 0xA6#8] ∧ (Fields.ofWord w).rd = 0xD#4 ∨
    hiByte w ∉ [0xA0#8, 0xA1#8, 0xA6#8] ∧ (Fields.ofWord w).rd = 0xF#4 ∨
    (Fields.ofWord w).mode ∈ [1#3, 4#3, 6#3, 7#3] ∧ (Fields.ofWord w).rx = 0xF#4 ∨
    (Fields.ofWord w).op5 ∈ [13#5, 14#5] ∧
      (Fields.ofWord w).rd ∉ [0x0#4, 0x2#4, 0x4#4, 0x6#4, 0x8#4, 0xA#4] ∨
    hiByte w ∈ [0xC0#8, 0xC4#8] ∧ (Fields.ofWord w).rd = 0xD#4

/-- The register pairs (Rd, Rd+1) of MULL and DIVL (30_encoding R102). -/
def registerPairs : List (Reg × Reg) :=
  [(.g0, .g1), (.g2, .g3), (.g4, .g5), (.g6, .g7), (.g8, .g9), (.g10, .g11)]

/-- The instruction stream is at an ordinary boundary: not halted, and no device interrupt is accepted
(60_exceptions R206). -/
def Undisturbed (s : State) : Prop := s.halted = false ∧ (s.flag.e = false ∨ s.pending = 0#10)

/-- The register is the stack pointer that SP names: SP itself, or USP in user mode (46_stack_return R186). -/
def IsStackPointer (s : State) (r : Reg) : Prop := r = .sp ∨ (r = .usp ∧ s.flag.p = false)

/-- Everything an I/O access leaves alone outside registers, PC and the device registers: memory, FLAG, `halted`, the mode
register, the input ports; and it raises no request (60_exceptions R204). -/
def IoFrame (s t : State) : Prop :=
  MemSame s t ∧ t.flag = s.flag ∧ t.halted = s.halted ∧ t.mode = s.mode ∧ t.inp = s.inp ∧
    ∀ n, t.pending.getLsbD n = true → s.pending.getLsbD n = true

/-- The invariant of every state of a run: memory in canonical form, and RN4020-Cmd at its initial value until an OUT
has written it (60_exceptions R226). -/
def State.Inv (s : State) : Prop :=
  s.mem.wf = true ∧ (s.out.rn4020CmdWritten = false → s.out.rn4020Cmd = 0b0001#4)

end Sys2Proof.Machine
end

