-- ==== Sys2Proof/Certificates/Slice0/Obligations.lean ====
section
/-! DEFINITION. The statements for the provers. OBLIGATIONS.json lists them with the rules of spec/ they formalise. -/

open Sys2Proof Sys2Proof.Machine

/-! ## Encoding -/

/-- The decoder gives back every well-formed instruction from its encoding, whatever bytes follow (30_encoding R80-R103). -/
def Obligations.DecodeEncodeRoundTrip : Prop :=
  ∀ (i : Instr) (rest : List Byte), i.wf = true → decodeBytes (encodeBytes i ++ rest) = .ok (i, rest)

/-- Whatever bytes the decoder reads an instruction from are that instruction's encoding, and it is well formed: no bit of
a word is dropped (30_encoding R80-R103). -/
def Obligations.DecodedBytesAreTheEncoding : Prop :=
  ∀ (bs rest : List Byte) (i : Instr), decodeBytes bs = .ok (i, rest) → i.wf = true ∧ bs = encodeBytes i ++ rest

/-- Words of 95_test_vectors 2.1 decode to what the table says. -/
def Obligations.SpecWordsDecode : Prop :=
  decode 0x0810#16 0x1234#16 = .ok (.ld .g1 (.loc (.direct 0x1234#16))) ∧
    decode 0x0B1F#16 0#16 = .ok (.ld .g1 (.loc (.fpRel 0xF#4))) ∧
    decode 0x1333#16 0#16 = .ok (.st .g3 (.fpRel 3#4)) ∧
    decode 0x1DD2#16 0#16 = .ok (.add .sp (.imm4 2#4)) ∧
    decode 0x6C25#16 0#16 = .ok (.mull .g2 (.reg .g5)) ∧
    decode 0x9573#16 0#16 = .ok (.shra .g7 (.imm4 3#4)) ∧
    decode 0xA173#16 0x0100#16 = .ok (.jlt (.indexed 0x0100#16 .g3)) ∧
    decode 0xB701#16 0#16 = .ok (.inp .g0 (.byteIndirect .g1)) ∧
    decode 0xC4C0#16 0#16 = .ok (.pop .fp) ∧
    decode 0xFF00#16 0#16 = .ok .halt

/-- The decoder calls a word undefined exactly when its opcode byte is one of the blank cells that 30_encoding R99
lists. -/
def Obligations.BlankOpcodesAreUndefined : Prop :=
  ∀ w1 w2 : Word, decode w1 w2 = .error .undefinedOpcode ↔ hiByte w1 ∈ blankOpcodes

/-- A first word of a defined opcode with a field that the spec refuses (non-zero must-be-zero field, condition Dh,
register Fh, a wrong pair, PUSH or POP of SP) is neither an instruction nor undefined, and the step that fetches it is
refused by one of the five names (30_encoding R100-R102, 10_state R25). That it is so whatever the fetch of a second word
would do is the model's choice, log 17. -/
def Obligations.RefusedEncodingsStop : Prop :=
  ∀ (s : State) (w1 w2 : Word), hiByte w1 ∉ blankOpcodes → RefusedWord w1 →
    (∃ e, decode w1 w2 = .error e ∧ e ≠ .undefinedOpcode) ∧
      (Undisturbed s → s.loadWord .fetch s.pc = .ok w1 →
        ∃ r ∈ [Refusal.mustBeZero, .blankCondition, .registerPair, .pcOperand, .stackPointerOperand],
          step s = .refused r)

/-! ## Steps, interrupts, reset -/

/-- A step at an undisturbed boundary runs the instruction that the words at PC decode to, and then the devices act. The
second word is looked at only where the instruction has one. -/
def Obligations.StepRunsDecodedInstruction : Prop :=
  ∀ (s : State) (i : Instr) (w1 w2 : Word), Undisturbed s →
    s.loadWord .fetch s.pc = .ok w1 →
    (hasSecondWord (Fields.ofWord w1) = true → s.loadWord .fetch (s.pc + 2#16) = .ok w2) →
    decode w1 w2 = .ok i →
    (∀ t, exec i s = .next t → step s = .next t.boundary) ∧ (∀ r, exec i s = .refused r → step s = .refused r)

/-- The devices, between two instructions, change no CPU register, no PC, no FLAG, no MMU or output register and no
record; memory only where a uSD READ is in flight; requests that are up stay up, and a new one is of a source that is
enabled. This is the model's choice of what the open Device oracle may do: log 24, 31, 33. A source is enabled by its bit
of 60_exceptions R203, where bit I of a timer is bit 15 (R223; log 30) and the ADC, which has none, is always (log 31). -/
def Obligations.BoundaryOnlyDevices : Prop :=
  ∀ s : State, s.boundary.regs = s.regs ∧ s.boundary.pc = s.pc ∧ s.boundary.flag = s.flag ∧
    s.boundary.mmuEn = s.mmuEn ∧ s.boundary.mmuBase = s.mmuBase ∧ s.boundary.mmuLimit = s.mmuLimit ∧
    s.boundary.halted = s.halted ∧ s.boundary.mode = s.mode ∧ s.boundary.out = s.out ∧ s.boundary.ioLog = s.ioLog ∧
    ((∀ x, s.usd = some x → x.toMemory = false) → MemSame s s.boundary) ∧
    (∀ n, s.pending.getLsbD n = true → s.boundary.pending.getLsbD n = true) ∧
    (∀ n, s.boundary.pending.getLsbD n = true → s.pending.getLsbD n = true ∨ s.irqEnabled.getLsbD n = true) ∧
    s.irqEnabled.getLsbD 0 = s.out.timer0Ctrl.getLsbD 15 ∧ s.irqEnabled.getLsbD 1 = s.out.timer1Ctrl.getLsbD 15 ∧
    s.irqEnabled.getLsbD 2 = s.out.rn4020Ctrl.r ∧ s.irqEnabled.getLsbD 3 = s.out.rn4020Ctrl.t ∧
    s.irqEnabled.getLsbD 4 = s.out.ft232rlCtrl.r ∧ s.irqEnabled.getLsbD 5 = s.out.ft232rlCtrl.t ∧
    s.irqEnabled.getLsbD 6 = s.out.tecCtrl.r ∧ s.irqEnabled.getLsbD 7 = s.out.tecCtrl.t ∧
    s.irqEnabled.getLsbD 8 = s.out.usdCtrl.getLsbD 3 ∧ s.irqEnabled.getLsbD 9 = true

/-- With E = 1 and a request up, the step takes trap entry for one pending source with the current PC saved; the other
requests stay up (60_exceptions R206, R208, R210). -/
def Obligations.InterruptIsAccepted : Prop :=
  ∀ s : State, s.halted = false → s.flag.e = true → s.pending ≠ 0#10 →
    (∀ n, n < 10 → s.pending.getLsbD n = true → TrapReady s (BitVec.ofNat 4 n) s.pc) →
    ∃ n t b, n < 10 ∧ s.pending.getLsbD n = true ∧ (∀ m, m ≠ n → b.getLsbD m = s.pending.getLsbD m) ∧
      step s = .next t.boundary ∧ TrapTaken (s.setPending b) t (BitVec.ofNat 4 n) s.pc

/-- A word whose opcode byte is blank raises UndefinedInstruction through FFFCh and writes nothing itself; the saved PC is
one of the three candidates (30_encoding R99, 60_exceptions R202; log 8, 11). -/
def Obligations.UndefinedOpcodeTraps : Prop :=
  ∀ (s : State) (w1 : Word), Undisturbed s → s.loadWord .fetch s.pc = .ok w1 → hiByte w1 ∈ blankOpcodes →
    (∀ spc, SavedPc s 4#16 spc → TrapReady s 14#4 spc) →
    ∃ spc t, SavedPc s 4#16 spc ∧ step s = .next t.boundary ∧ TrapTaken s t 14#4 spc

/-- A fetch at an odd PC with the MMU off raises InvalidAddress (10_state R27, 20_memory R57). That nothing is executed and
which PCs may be saved is the model's choice, log 8 and 9. -/
def Obligations.OddPcRaisesInvalidAddress : Prop :=
  ∀ s : State, Undisturbed s → isOdd s.pc = true → (∀ spc, SavedPc s 4#16 spc → TrapReady s 10#4 spc) →
    ∃ spc t, SavedPc s 4#16 spc ∧ step s = .next t.boundary ∧ TrapTaken s t 10#4 spc

/-- The state after reset: PC and FLAG at the spec's defaults, MMU off, nothing pending, not halted, RN4020-Cmd at 0001.
PC and FLAG are defaults of open parameters (70_reset_and_hazards R250; log 20). -/
def Obligations.ResetState : Prop :=
  State.reset.pc = 0xF000#16 ∧ State.reset.flag.toWord = 0x0040#16 ∧ State.reset.mmuEn = false ∧
    State.reset.pending = 0#10 ∧ State.reset.halted = false ∧ State.reset.ioByte 0x2D#8 = 0x01#8

/-- The invariant holds after reset. -/
def Obligations.ResetSatisfiesInvariant : Prop := State.reset.Inv

/-! ## Memory access and operands -/

/-- An access to memory. With the MMU off it is to the logical address itself and never rejected; with the MMU on the open
Translate gives the physical address and the permission. A rejected access raises MemProtViolation, a 16-bit one to an odd
logical address InvalidAddress, and an access of both kinds one of the two (20_memory R57, R58, R62, 60_exceptions R201,
R210; log 10, 14). An LD whose operand is rejected goes on, where it goes on, by trap entry through FFF6h, or FFF4h for a word
at an odd address. -/
def Obligations.MemoryAccess : Prop :=
  (∀ (s : State) (kind : AccessKind) (a : Word), s.mmuEn = false →
    s.translate kind a = { phys := a, permitted := true }) ∧
  (∀ (s : State) (kind : AccessKind) (a : Word),
    s.check kind true a =
        (if (s.translate kind a).permitted then .ok (s.translate kind a).phys else .error .memProtViolation) ∧
      (a.toNat % 2 = 0 →
        s.check kind false a =
          (if (s.translate kind a).permitted then .ok (s.translate kind a).phys else .error .memProtViolation)) ∧
      (a.toNat % 2 = 1 →
        s.check kind false a = .error .invalidAddress ∨
          (s.translate kind a).permitted = false ∧ s.check kind false a = .error .memProtViolation) ∧
      (∀ p, s.check kind false a = .ok p → s.loadWord kind a = .ok (s.byteAt p ++ s.byteAt (p + 1#16)))) ∧
  (∀ (s t : State) (rd : Reg) (l : Loc), exec (.ld rd (.loc l)) s = .next t →
    (s.translate .read (s.effAddr l)).permitted = true ∨
      ∃ v n, (n = 11#4 ∨ n = 10#4 ∧ isByteLoc l = false ∧ isOdd (s.effAddr l) = true) ∧ TrapEntered (s.setReg rd v) t n)

/-- The effective addresses of the modes (30_encoding R85, R86, R88, R91, R92, R94, R95). -/
def Obligations.EffectiveAddresses : Prop :=
  ∀ (s : State) (d : Word) (rx : Reg) (d4 : BitVec 4),
    s.effAddr (.direct d) = d ∧
      (s.effAddr (.indexed d rx)).toNat = (d.toNat + (s.reg rx).toNat) % 65536 ∧
      ((s.effAddr (.fpRel d4)).toNat : Int) = ((s.regs.fp.toNat : Int) + 2 * d4.toInt) % 65536 ∧
      s.effAddr (.indirect rx) = s.reg rx ∧ s.effAddr (.byteIndirect rx) = s.reg rx

/-- The operands of the modes, the memory ones with the MMU off (30_encoding R87, R89, R90, R92, R94). A byte is extended by
zeros, or, from 80h on, by the open parameter BYTE_LOAD_EXT. -/
def Obligations.OperandValues : Prop :=
  ∀ (s : State) (v : Word) (rs : Reg) (i4 : BitVec 4) (l : Loc),
    s.operand (.imm v) = .ok v ∧ s.operand (.reg rs) = .ok (s.reg rs) ∧
      (∃ b, s.operand (.imm4 i4) = .ok b ∧ b.toInt = i4.toInt) ∧
      (s.mmuEn = false → isByteLoc l = false → isOdd (s.effAddr l) = false →
        s.operand (.loc l) = .ok (s.wordAt (s.effAddr l))) ∧
      (s.mmuEn = false → isByteLoc l = false → isOdd (s.effAddr l) = true →
        s.operand (.loc l) = .error .invalidAddress) ∧
      (s.mmuEn = false → isByteLoc l = true →
        ∃ b, s.operand (.loc l) = .ok b ∧ loByte b = s.byteAt (s.effAddr l) ∧
          (hiByte b = 0x00#8 ∨ 128 ≤ (s.byteAt (s.effAddr l)).toNat ∧ hiByte b = 0xFF#8))

/-! ## NO, LD, LD Rd,FLAG, ST -/

/-- NO changes PC alone, in every state; the word 0000h is NO and the words 0001h-00FFh are not: a must-be-zero field of
theirs is not zero (40_no_ld_st R120). -/
def Obligations.NoOnlyAdvances : Prop :=
  (∀ s : State, exec .no s = .next (s.setPc (s.pc + 2#16))) ∧
    (∀ w2 : Word, decode 0x0000#16 w2 = .ok .no) ∧
    ∀ w1 w2 : Word, hiByte w1 = 0#8 → loByte w1 ≠ 0#8 → decode w1 w2 = .error .mustBeZero

/-- LD writes the operand to Rd and changes no flag (40_no_ld_st R121). -/
def Obligations.LdLoadsOperand : Prop :=
  ∀ (s : State) (rd : Reg) (src : Src) (b : Word), s.operand src = .ok b →
    ∃ t, exec (.ld rd src) s = .next t ∧ t.reg rd = b ∧ WritesOnly s t [bank s.flag.p rd] ∧ CondSame s t ∧
      t.pc = s.pc + srcLen src

/-- Every instruction that reads a word of memory raises InvalidAddress, with the MMU off, where the word is at an odd
address: LD, the thirteen of 41_alu, 42_muldiv and 43_shift that write one register, CMP, MULL and DIVL with their operand
there, and POP, RET and RETI with SP there. What the instruction writes is left free: Rd, V C S Z, the pair, SP, FLAG
(20_memory R57, 41_alu R130, 46_stack_return R187-R189, 60_exceptions R201, R202). RETI in user mode may raise
PrivViolation instead (log 19). Where trap entry cannot complete it is refused (log 13, 15). -/
def Obligations.OddLoadTraps : Prop :=
  (∀ (s : State) (l : Loc), s.mmuEn = false → isByteLoc l = false → isOdd (s.effAddr l) = true →
    (∀ rd, ∃ v spc, SavedPc s (locLen l) spc ∧
      TrapOutcome (s.setReg rd v) 10#4 spc (exec (.ld rd (.loc l)) s)) ∧
    (∀ rd i, i ∈ [Instr.add rd (.loc l), .sub rd (.loc l), .and rd (.loc l), .or rd (.loc l), .xor rd (.loc l),
        .adds rd (.loc l), .mul rd (.loc l), .div rd (.loc l), .mod rd (.loc l), .shla rd (.loc l), .shll rd (.loc l),
        .shra rd (.loc l), .shrl rd (.loc l)] →
      ∃ v c spc, SavedPc s (locLen l) spc ∧ TrapOutcome ((s.setReg rd v).setCond c) 10#4 spc (exec i s)) ∧
    (∀ rd, ∃ c spc, SavedPc s (locLen l) spc ∧ TrapOutcome (s.setCond c) 10#4 spc (exec (.cmp rd (.loc l)) s)) ∧
    (∀ rd hi i, (rd, hi) ∈ registerPairs → i ∈ [Instr.mull rd (.loc l), .divl rd (.loc l)] →
      ∃ v u c spc, SavedPc s (locLen l) spc ∧
        TrapOutcome (((s.setReg rd v).setReg hi u).setCond c) 10#4 spc (exec i s))) ∧
  (∀ s : State, s.mmuEn = false → isOdd (s.reg .sp) = true →
    (∀ rd, ¬ IsStackPointer s rd → ∃ v u spc, SavedPc s 2#16 spc ∧
      TrapOutcome ((s.setReg .sp v).setReg rd u) 10#4 spc (exec (.pop rd) s)) ∧
    (∃ v spc, SavedPc s 2#16 spc ∧ TrapOutcome (s.setReg .sp v) 10#4 spc (exec .ret s)) ∧
    ((∃ v f spc, SavedPc s 2#16 spc ∧ TrapOutcome ((s.setReg .sp v).setFlags f) 10#4 spc (exec .reti s)) ∨
      s.flag.p = false ∧ ∃ spc, SavedPc s 2#16 spc ∧ TrapOutcome s 13#4 spc (exec .reti s)))

/-- LD Rd,FLAG gives Rd the word 00000000 E P I 0 V C S Z, in both modes, and changes nothing else but PC; it is the word
14d0h with d = Rd (40_no_ld_st R122). That it does so in user mode rests on its not being in PRIV_SET, which R122 says is
the default (47_system R196; log 6). -/
def Obligations.LdFlagCopiesFlag : Prop :=
  (∀ (rd : Reg) (w2 : Word), decode (0x14#8 ++ (rd.bits ++ 0x0#4)) w2 = .ok (.ldFlag rd)) ∧
  ∀ (s : State) (rd : Reg), ∃ t, exec (.ldFlag rd) s = .next t ∧
    (t.reg rd).toNat = 128 * s.flag.e.toNat + 64 * s.flag.p.toNat + 32 * s.flag.i.toNat + 8 * s.flag.v.toNat +
      4 * s.flag.c.toNat + 2 * s.flag.s.toNat + s.flag.z.toNat ∧
    WritesOnly s t [bank s.flag.p rd] ∧ CondSame s t ∧ t.pc = s.pc + 2#16

/-- ST stores Rd, upper byte first, at the effective address and nothing else; in mode 7 it stores bits 7:0 of Rd there and
nothing else (40_no_ld_st R123, 20_memory R55). -/
def Obligations.StStoresRegister : Prop :=
  ∀ (s : State) (rd : Reg) (l : Loc) (p : Word), s.check .write (isByteLoc l) (s.effAddr l) = .ok p →
    writable p = true → (isByteLoc l = false → writable (p + 1#16) = true) →
    ∃ t, exec (.st rd l) s = .next t ∧
      (isByteLoc l = true → t.byteAt p = loByte (s.reg rd) ∧ MemSameBut s t [p]) ∧
      (isByteLoc l = false → t.byteAt p = hiByte (s.reg rd) ∧ t.byteAt (p + 1#16) = loByte (s.reg rd) ∧
        MemSameBut s t [p, p + 1#16]) ∧
      t.regs = s.regs ∧ t.flag = s.flag ∧ DevicesSame s t ∧ t.pc = s.pc + locLen l

/-- Every instruction that stores a word raises InvalidAddress, with the MMU off, where the word is at an odd address: ST at
its effective address, PUSH and CALL below SP. The flags and every register but the SP of PUSH and CALL are as before, and
so is memory outside the words that contain the addressed bytes and outside the trap frame (20_memory R57, 40_no_ld_st R123,
44_jump_call R176, 46_stack_return R186, 60_exceptions R201, R202). Where trap entry cannot complete it is refused
(log 13, 15). -/
def Obligations.OddStoreTraps : Prop :=
  (∀ (s : State) (rd : Reg) (l : Loc), s.mmuEn = false → isByteLoc l = false → isOdd (s.effAddr l) = true →
    ∃ m spc, SavedPc s (locLen l) spc ∧
      MemSameBut s (s.setMem m) [s.effAddr l - 1#16, s.effAddr l, s.effAddr l + 1#16, s.effAddr l + 2#16] ∧
      TrapOutcome (s.setMem m) 10#4 spc (exec (.st rd l) s)) ∧
  (∀ s : State, s.mmuEn = false → isOdd (s.reg .sp) = true →
    (∀ rd, ¬ IsStackPointer s rd → ∃ m v spc, SavedPc s 2#16 spc ∧
      MemSameBut s (s.setMem m) [s.reg .sp - 3#16, s.reg .sp - 2#16, s.reg .sp - 1#16, s.reg .sp] ∧
      TrapOutcome ((s.setMem m).setReg .sp v) 10#4 spc (exec (.push rd) s)) ∧
    (∀ g, ∃ m v spc, SavedPc s (targetLen g) spc ∧
      MemSameBut s (s.setMem m) [s.reg .sp - 3#16, s.reg .sp - 2#16, s.reg .sp - 1#16, s.reg .sp] ∧
      TrapOutcome ((s.setMem m).setReg .sp v) 10#4 spc (exec (.call g) s)))

/-! ## ADD, SUB, CMP, AND, OR, XOR, ADDS -/

/-- ADD (41_alu R131): the sum modulo 2^16, C the carry, V the signed overflow, S and Z of the result. -/
def Obligations.AddSumAndFlags : Prop :=
  ∀ (s : State) (rd : Reg) (src : Src) (b : Word), s.operand src = .ok b →
    ∃ t, exec (.add rd src) s = .next t ∧ (t.reg rd).toNat = ((s.reg rd).toNat + b.toNat) % 65536 ∧
      (t.flag.c = true ↔ 65536 ≤ (s.reg rd).toNat + b.toNat) ∧
      (t.flag.v = true ↔ (s.reg rd).toInt + b.toInt < -32768 ∨ 32767 < (s.reg rd).toInt + b.toInt) ∧
      (t.flag.s = true ↔ (t.reg rd).toInt < 0) ∧ (t.flag.z = true ↔ t.reg rd = 0#16) ∧
      WritesOnly s t [bank s.flag.p rd] ∧ t.pc = s.pc + srcLen src

/-- SUB (41_alu R132): the difference modulo 2^16, C the borrow, V the signed overflow, S and Z of the result. -/
def Obligations.SubDifferenceAndFlags : Prop :=
  ∀ (s : State) (rd : Reg) (src : Src) (b : Word), s.operand src = .ok b →
    ∃ t, exec (.sub rd src) s = .next t ∧ (t.reg rd).toNat = ((s.reg rd).toNat + 65536 - b.toNat) % 65536 ∧
      (t.flag.c = true ↔ (s.reg rd).toNat < b.toNat) ∧
      (t.flag.v = true ↔ (s.reg rd).toInt - b.toInt < -32768 ∨ 32767 < (s.reg rd).toInt - b.toInt) ∧
      (t.flag.s = true ↔ (t.reg rd).toInt < 0) ∧ (t.flag.z = true ↔ t.reg rd = 0#16) ∧
      WritesOnly s t [bank s.flag.p rd] ∧ t.pc = s.pc + srcLen src

/-- CMP (41_alu R133): the four flags of the subtraction, no register written, and the flags SUB would give. -/
def Obligations.CmpFlags : Prop :=
  ∀ (s : State) (rd : Reg) (src : Src) (b : Word), s.operand src = .ok b →
    ∃ t, exec (.cmp rd src) s = .next t ∧ (t.flag.c = true ↔ (s.reg rd).toNat < b.toNat) ∧
      (t.flag.v = true ↔ (s.reg rd).toInt - b.toInt < -32768 ∨ 32767 < (s.reg rd).toInt - b.toInt) ∧
      (t.flag.s = true ↔ (s.reg rd - b).toInt < 0) ∧ (t.flag.z = true ↔ s.reg rd = b) ∧
      WritesOnly s t [] ∧ t.pc = s.pc + srcLen src ∧ (∀ u, exec (.sub rd src) s = .next u → CondSame t u)

/-- The compare-and-jump table (44_jump_call R177, 10_state R35): after CMP (or SUB) Z says equal, C unsigned less and S xor
V signed less, and each jump is taken exactly when its relation holds between Rd and the operand. -/
def Obligations.CompareThenJump : Prop :=
  ∀ (s t : State) (rd : Reg) (src : Src) (b : Word) (g : Target), s.operand src = .ok b →
    exec (.cmp rd src) s = .next t ∨ exec (.sub rd src) s = .next t →
    (t.flag.z = true ↔ s.reg rd = b) ∧ (t.flag.c = true ↔ (s.reg rd).toNat < b.toNat) ∧
      (t.flag.s ≠ t.flag.v ↔ (s.reg rd).toInt < b.toInt) ∧
      exec (.jgt g) t = .next (t.setPc (if (s.reg rd).toInt > b.toInt then t.targetAddr g else t.pc + targetLen g)) ∧
      exec (.jge g) t = .next (t.setPc (if (s.reg rd).toInt ≥ b.toInt then t.targetAddr g else t.pc + targetLen g)) ∧
      exec (.jle g) t = .next (t.setPc (if (s.reg rd).toInt ≤ b.toInt then t.targetAddr g else t.pc + targetLen g)) ∧
      exec (.jlt g) t = .next (t.setPc (if (s.reg rd).toInt < b.toInt then t.targetAddr g else t.pc + targetLen g)) ∧
      exec (.jhi g) t = .next (t.setPc (if (s.reg rd).toNat > b.toNat then t.targetAddr g else t.pc + targetLen g)) ∧
      exec (.jnc g) t = .next (t.setPc (if (s.reg rd).toNat ≥ b.toNat then t.targetAddr g else t.pc + targetLen g)) ∧
      exec (.jls g) t = .next (t.setPc (if (s.reg rd).toNat ≤ b.toNat then t.targetAddr g else t.pc + targetLen g)) ∧
      exec (.jc g) t = .next (t.setPc (if (s.reg rd).toNat < b.toNat then t.targetAddr g else t.pc + targetLen g)) ∧
      exec (.jz g) t = .next (t.setPc (if s.reg rd = b then t.targetAddr g else t.pc + targetLen g)) ∧
      exec (.jnz g) t = .next (t.setPc (if s.reg rd = b then t.pc + targetLen g else t.targetAddr g))

/-- AND, OR, XOR act on each bit; S and Z of the result; C and V are free (41_alu R134-R136, R138). -/
def Obligations.LogicOperations : Prop :=
  ∀ (s : State) (rd : Reg) (src : Src) (b : Word), s.operand src = .ok b →
    (∃ t, exec (.and rd src) s = .next t ∧
      (∀ i, (t.reg rd).getLsbD i = ((s.reg rd).getLsbD i && b.getLsbD i)) ∧
      (t.flag.s = true ↔ (t.reg rd).toInt < 0) ∧ (t.flag.z = true ↔ t.reg rd = 0#16) ∧
      WritesOnly s t [bank s.flag.p rd] ∧ t.pc = s.pc + srcLen src) ∧
    (∃ t, exec (.or rd src) s = .next t ∧
      (∀ i, (t.reg rd).getLsbD i = ((s.reg rd).getLsbD i || b.getLsbD i)) ∧
      (t.flag.s = true ↔ (t.reg rd).toInt < 0) ∧ (t.flag.z = true ↔ t.reg rd = 0#16) ∧
      WritesOnly s t [bank s.flag.p rd] ∧ t.pc = s.pc + srcLen src) ∧
    (∃ t, exec (.xor rd src) s = .next t ∧
      (∀ i, (t.reg rd).getLsbD i = ((s.reg rd).getLsbD i ^^ b.getLsbD i)) ∧
      (t.flag.s = true ↔ (t.reg rd).toInt < 0) ∧ (t.flag.z = true ↔ t.reg rd = 0#16) ∧
      WritesOnly s t [bank s.flag.p rd] ∧ t.pc = s.pc + srcLen src)

/-- ADDS adds twice the operand; S and Z of the result; C and V are free (41_alu R137). -/
def Obligations.AddsScalesOperand : Prop :=
  ∀ (s : State) (rd : Reg) (src : Src) (b : Word), s.operand src = .ok b →
    ∃ t, exec (.adds rd src) s = .next t ∧ (t.reg rd).toNat = ((s.reg rd).toNat + 2 * b.toNat) % 65536 ∧
      (t.flag.s = true ↔ (t.reg rd).toInt < 0) ∧ (t.flag.z = true ↔ t.reg rd = 0#16) ∧
      WritesOnly s t [bank s.flag.p rd] ∧ t.pc = s.pc + srcLen src

/-! ## MUL, DIV, MOD, MULL, DIVL -/

/-- MUL gives the low 16 bits of the product; the flags are free (42_muldiv R140). -/
def Obligations.MulLowWord : Prop :=
  ∀ (s : State) (rd : Reg) (src : Src) (b : Word), s.operand src = .ok b →
    ∃ t, exec (.mul rd src) s = .next t ∧ (t.reg rd).toNat = ((s.reg rd).toNat * b.toNat) % 65536 ∧
      WritesOnly s t [bank s.flag.p rd] ∧ t.pc = s.pc + srcLen src

/-- DIV and MOD with a non-zero operand complete; below 8000h they give the quotient rounded down and its remainder
(42_muldiv R141, R142, R147). -/
def Obligations.DivModQuotientRemainder : Prop :=
  ∀ (s : State) (rd : Reg) (src : Src) (b : Word), s.operand src = .ok b → b ≠ 0#16 →
    (∃ t, exec (.div rd src) s = .next t ∧
      ((s.reg rd).toNat < 0x8000 → b.toNat < 0x8000 → (t.reg rd).toNat = (s.reg rd).toNat / b.toNat) ∧
      (b = 1#16 → t.reg rd = s.reg rd) ∧ (s.reg rd = 0#16 → t.reg rd = 0#16) ∧
      WritesOnly s t [bank s.flag.p rd] ∧ t.pc = s.pc + srcLen src) ∧
    (∃ t, exec (.mod rd src) s = .next t ∧
      ((s.reg rd).toNat < 0x8000 → b.toNat < 0x8000 → (t.reg rd).toNat = (s.reg rd).toNat % b.toNat) ∧
      (b = 1#16 → t.reg rd = 0#16) ∧
      WritesOnly s t [bank s.flag.p rd] ∧ t.pc = s.pc + srcLen src)

/-- DIV and MOD by 0000h, with any Rd and the MMU off, raise ZeroDivide through FFF8h; Rd and V, C, S, Z are left free, SSP
too where it is Rd (42_muldiv R145, 60_exceptions R202; log 7). Where trap entry cannot complete it is refused
(60_exceptions R213; log 13, 15). -/
def Obligations.ZeroDivideTraps : Prop :=
  ∀ (s : State) (rd : Reg) (src : Src) (i : Instr), i = .div rd src ∨ i = .mod rd src →
    s.operand src = .ok 0#16 → s.mmuEn = false →
    ∃ v c spc, SavedPc s (srcLen src) spc ∧ TrapOutcome ((s.setReg rd v).setCond c) 12#4 spc (exec i s)

/-- MULL gives the 32-bit product in (Rd+1, Rd); its upper word is the parameter's where an operand has bit 15 set
(42_muldiv R143). -/
def Obligations.MullProduct : Prop :=
  ∀ (s : State) (rd hi : Reg) (src : Src) (b : Word), (rd, hi) ∈ registerPairs → s.operand src = .ok b →
    ∃ t, exec (.mull rd src) s = .next t ∧ (t.reg rd).toNat = ((s.reg rd).toNat * b.toNat) % 65536 ∧
      ((s.reg rd).toNat < 0x8000 → b.toNat < 0x8000 →
        (t.reg hi).toNat * 65536 + (t.reg rd).toNat = (s.reg rd).toNat * b.toNat) ∧
      WritesOnly s t [bank s.flag.p rd, bank s.flag.p hi] ∧ t.pc = s.pc + srcLen src

/-- DIVL with a non-zero operand completes, and in the fixed range gives the quotient of the pair in Rd and the remainder
in Rd+1; by 0000h it raises ZeroDivide with the pair and the flags left free (42_muldiv R144, R145). -/
def Obligations.DivlQuotientRemainder : Prop :=
  ∀ (s : State) (rd hi : Reg) (src : Src) (b : Word), (rd, hi) ∈ registerPairs → s.operand src = .ok b →
    (b ≠ 0#16 →
      ∃ t, exec (.divl rd src) s = .next t ∧
        ((s.reg hi).toNat * 65536 + (s.reg rd).toNat < 0x80000000 → b.toNat < 0x8000 →
          ((s.reg hi).toNat * 65536 + (s.reg rd).toNat) / b.toNat ≤ 0x7FFF →
          (t.reg rd).toNat = ((s.reg hi).toNat * 65536 + (s.reg rd).toNat) / b.toNat ∧
            (t.reg hi).toNat = ((s.reg hi).toNat * 65536 + (s.reg rd).toNat) % b.toNat) ∧
        WritesOnly s t [bank s.flag.p rd, bank s.flag.p hi] ∧ t.pc = s.pc + srcLen src) ∧
    (b = 0#16 →
      (∀ v u c spc, SavedPc s (srcLen src) spc →
        TrapReady (((s.setReg rd v).setReg hi u).setCond c) 12#4 spc) →
      ∃ v u c spc t, SavedPc s (srcLen src) spc ∧ exec (.divl rd src) s = .next t ∧
        TrapTaken (((s.setReg rd v).setReg hi u).setCond c) t 12#4 spc)

/-- MULL and then DIVL by the same operand returns Rd, with remainder 0 (42_muldiv R147). -/
def Obligations.MullThenDivl : Prop :=
  ∀ (s : State) (rd hi : Reg) (b : Word), (rd, hi) ∈ registerPairs → (s.reg rd).toNat < 0x8000 →
    1 ≤ b.toNat → b.toNat < 0x8000 →
    ∃ t u, exec (.mull rd (.imm b)) s = .next t ∧ exec (.divl rd (.imm b)) t = .next u ∧
      u.reg rd = s.reg rd ∧ u.reg hi = 0#16

/-- The forms that stop by name. MULL and DIVL outside the register pairs (30_encoding R102; log 17); PUSH and POP of
the stack pointer (46_stack_return R186, R187; log 18). IN and OUT outside the I/O space, or 16 bits wide at an odd
address, do what the open IO_ADDR_HIGH says: at the spec's default they stop, else they access the port it names or
raise InvalidAddress, what they write left free (45_io R182; log 7, 16). ST, PUSH and CALL stop where a byte to be
written is not Writable: the IPL ROM, at the spec's default (20_memory R61; log 15). A trap entry that cannot complete,
and SVC with it, stops: a push that the check rejects, with the MMU on or off, a vector read that it rejects, an odd
handler address (60_exceptions R213; log 13). -/
def Obligations.RefusedForms : Prop :=
  (∀ (s : State) (rd : Reg) (src : Src), (∀ hi, (rd, hi) ∉ registerPairs) →
    exec (.mull rd src) s = .refused .registerPair ∧ exec (.divl rd src) s = .refused .registerPair) ∧
  (∀ (s : State) (rd : Reg), IsStackPointer s rd →
    exec (.push rd) s = .refused .stackPointerOperand ∧ exec (.pop rd) s = .refused .stackPointerOperand) ∧
  (∀ (s : State) (rd : Reg) (p : Port),
    (0xFF < (s.portAddr p).toNat ∨ portByte p = false ∧ (s.portAddr p).toNat % 2 = 1) →
    (s.flag.p = true ∨ s.flag.i = true ∨ Config.privSet .inp = false →
      Config.ioAddrHigh (portByte p) (s.portAddr p) = .refuse ∧ exec (.inp rd p) s = .refused .ioAddress ∨
        (∃ a, Config.ioAddrHigh (portByte p) (s.portAddr p) = .port a ∧ exec (.inp rd p) s = .next (s.readPort rd p a)) ∨
        Config.ioAddrHigh (portByte p) (s.portAddr p) = .raises ∧
          exec (.inp rd p) s = (s.drawIn rd).takeFault .invalidAddress (portLen p)) ∧
    (s.flag.p = true ∨ s.flag.i = true ∨ Config.privSet .out = false →
      Config.ioAddrHigh (portByte p) (s.portAddr p) = .refuse ∧ exec (.out rd p) s = .refused .ioAddress ∨
        (∃ a, Config.ioAddrHigh (portByte p) (s.portAddr p) = .port a ∧ exec (.out rd p) s = .next (s.writePort rd p a)) ∨
        Config.ioAddrHigh (portByte p) (s.portAddr p) = .raises ∧
          exec (.out rd p) s = (s.drawOut (portByte p)).takeFault .invalidAddress (portLen p))) ∧
  (∀ (s : State) (rd : Reg) (l : Loc) (p : Word), s.check .write (isByteLoc l) (s.effAddr l) = .ok p →
    exec (.st rd l) s = .refused .romWrite ∨
      writable p = true ∧ (isByteLoc l = false → writable (p + 1#16) = true)) ∧
  (∀ (s : State) (p : Word), s.check .write false (s.reg .sp - 2#16) = .ok p →
    (∀ rd, ¬ IsStackPointer s rd →
      exec (.push rd) s = .refused .romWrite ∨ writable p = true ∧ writable (p + 1#16) = true) ∧
    (∀ g, exec (.call g) s = .refused .romWrite ∨ writable p = true ∧ writable (p + 1#16) = true)) ∧
  (∀ (s : State) (n : BitVec 4) (spc : Word), s.mmuEn = false →
    (isOdd s.regs.ssp = true → s.trapEntry n spc = .refused .trapEntryFault) ∧
    (¬ TrapReady s n spc →
      s.trapEntry n spc = .refused .trapEntryFault ∨ s.trapEntry n spc = .refused .romWrite)) ∧
  (∀ (s : State) (n : BitVec 4) (spc : Word) (x : Exc),
    (s.setFlags s.flag.trapped).check .trapPush false (s.regs.ssp - 2#16) = .error x →
    s.trapEntry n spc = .refused .trapEntryFault) ∧
  (∀ (s : State) (n : BitVec 4) (spc : Word),
    s.trapEntry n spc = .refused .trapEntryFault ∨ s.trapEntry n spc = .refused .romWrite ∨
      ∃ p q t, s.trapEntry n spc = .next t ∧ isOdd t.pc = false ∧
        (s.setFlags s.flag.trapped).check .trapPush false (s.regs.ssp - 2#16) = .ok p ∧
        (s.setFlags s.flag.trapped).check .trapPush false (s.regs.ssp - 4#16) = .ok q ∧
        t.loadWord .vectorFetch (vectorAddr n) = .ok t.pc) ∧
  (∀ s : State, s.mmuEn = false → ¬ TrapReady s 15#4 (s.pc + 2#16) →
    exec .svc s = .refused .trapEntryFault ∨ exec .svc s = .refused .romWrite)

/-! ## Shifts -/

/-- SHLA and SHLL complete for every count; for 0 to 15 the result is a * 2^n modulo 2^16, and for 1 to 15 S and Z are of
the result (43_shift R150-R152). -/
def Obligations.ShiftLeft : Prop :=
  ∀ (s : State) (rd : Reg) (src : Src) (n : Word) (i : Instr), i = .shla rd src ∨ i = .shll rd src →
    s.operand src = .ok n →
    ∃ t, exec i s = .next t ∧
      (n.toNat ≤ 15 → (t.reg rd).toNat = ((s.reg rd).toNat * 2 ^ n.toNat) % 65536) ∧
      (1 ≤ n.toNat → n.toNat ≤ 15 →
        (t.flag.s = true ↔ (t.reg rd).toInt < 0) ∧ (t.flag.z = true ↔ t.reg rd = 0#16)) ∧
      WritesOnly s t [bank s.flag.p rd] ∧ t.pc = s.pc + srcLen src

/-- SHRA and SHRL complete for every count; for 0 to 15 the result is a / 2^n rounded down, of the signed value for SHRA
and the unsigned one for SHRL, and for 1 to 15 S and Z are of the result (43_shift R150, R153, R154). -/
def Obligations.ShiftRight : Prop :=
  ∀ (s : State) (rd : Reg) (src : Src) (n : Word), s.operand src = .ok n →
    (∃ t, exec (.shra rd src) s = .next t ∧
      (n.toNat ≤ 15 → (t.reg rd).toInt = (s.reg rd).toInt / 2 ^ n.toNat) ∧
      (1 ≤ n.toNat → n.toNat ≤ 15 →
        (t.flag.s = true ↔ (t.reg rd).toInt < 0) ∧ (t.flag.z = true ↔ t.reg rd = 0#16)) ∧
      WritesOnly s t [bank s.flag.p rd] ∧ t.pc = s.pc + srcLen src) ∧
    (∃ t, exec (.shrl rd src) s = .next t ∧
      (n.toNat ≤ 15 → (t.reg rd).toNat = (s.reg rd).toNat / 2 ^ n.toNat) ∧
      (1 ≤ n.toNat → n.toNat ≤ 15 →
        (t.flag.s = true ↔ (t.reg rd).toInt < 0) ∧ (t.flag.z = true ↔ t.reg rd = 0#16)) ∧
      WritesOnly s t [bank s.flag.p rd] ∧ t.pc = s.pc + srcLen src)

/-! ## Jumps and CALL -/

/-- The fifteen jumps: PC becomes the effective address where the condition holds and that of the next instruction where
not, and nothing else changes (44_jump_call R160). -/
def Obligations.JumpsTransferControl : Prop :=
  ∀ (s : State) (g : Target),
    exec (.jz g) s = .next (s.setPc (if s.flag.z = true then s.targetAddr g else s.pc + targetLen g)) ∧
    exec (.jc g) s = .next (s.setPc (if s.flag.c = true then s.targetAddr g else s.pc + targetLen g)) ∧
    exec (.jm g) s = .next (s.setPc (if s.flag.s = true then s.targetAddr g else s.pc + targetLen g)) ∧
    exec (.jo g) s = .next (s.setPc (if s.flag.v = true then s.targetAddr g else s.pc + targetLen g)) ∧
    exec (.jgt g) s =
      .next (s.setPc (if s.flag.z = false ∧ s.flag.s = s.flag.v then s.targetAddr g else s.pc + targetLen g)) ∧
    exec (.jge g) s = .next (s.setPc (if s.flag.s = s.flag.v then s.targetAddr g else s.pc + targetLen g)) ∧
    exec (.jle g) s =
      .next (s.setPc (if s.flag.z = true ∨ s.flag.s ≠ s.flag.v then s.targetAddr g else s.pc + targetLen g)) ∧
    exec (.jlt g) s = .next (s.setPc (if s.flag.s ≠ s.flag.v then s.targetAddr g else s.pc + targetLen g)) ∧
    exec (.jnz g) s = .next (s.setPc (if s.flag.z = false then s.targetAddr g else s.pc + targetLen g)) ∧
    exec (.jnc g) s = .next (s.setPc (if s.flag.c = false then s.targetAddr g else s.pc + targetLen g)) ∧
    exec (.jnm g) s = .next (s.setPc (if s.flag.s = false then s.targetAddr g else s.pc + targetLen g)) ∧
    exec (.jno g) s = .next (s.setPc (if s.flag.v = false then s.targetAddr g else s.pc + targetLen g)) ∧
    exec (.jhi g) s =
      .next (s.setPc (if s.flag.z = false ∧ s.flag.c = false then s.targetAddr g else s.pc + targetLen g)) ∧
    exec (.jls g) s =
      .next (s.setPc (if s.flag.z = true ∨ s.flag.c = true then s.targetAddr g else s.pc + targetLen g)) ∧
    exec (.jmp g) s = .next (s.setPc (s.targetAddr g))

/-- CALL pushes the address of the next instruction and goes to the effective address; only SP, PC and the pushed word
change (44_jump_call R176, 46_stack_return R185). -/
def Obligations.CallPushesReturnAddress : Prop :=
  ∀ (s : State) (g : Target) (p : Word), s.check .write false (s.reg .sp - 2#16) = .ok p →
    writable p = true → writable (p + 1#16) = true →
    ∃ t, exec (.call g) s = .next t ∧ t.reg .sp = s.reg .sp - 2#16 ∧ t.wordAt p = s.pc + targetLen g ∧
      t.pc = s.targetAddr g ∧ RegsSameBut s t [bank s.flag.p .sp] ∧ MemSameBut s t [p, p + 1#16] ∧
      t.flag = s.flag ∧ DevicesSame s t

/-- CALL and then RET continues after the CALL with every register as before (44_jump_call R176, 46_stack_return R188). -/
def Obligations.CallThenRet : Prop :=
  ∀ (s : State) (g : Target), s.mmuEn = false → isOdd (s.reg .sp) = false → writable (s.reg .sp - 2#16) = true →
    ∃ t u, exec (.call g) s = .next t ∧ exec .ret t = .next u ∧ u.pc = s.pc + targetLen g ∧ u.regs = s.regs ∧
      u.flag = s.flag

/-! ## PUSH, POP, RET, RETI -/

/-- PUSH stores Rd below the stack pointer and moves SP there; only SP, PC and the pushed word change (46_stack_return R185,
R186). -/
def Obligations.PushStoresRegister : Prop :=
  ∀ (s : State) (rd : Reg) (p : Word), ¬ IsStackPointer s rd → s.check .write false (s.reg .sp - 2#16) = .ok p →
    writable p = true → writable (p + 1#16) = true →
    ∃ t, exec (.push rd) s = .next t ∧ t.reg .sp = s.reg .sp - 2#16 ∧ t.wordAt p = s.reg rd ∧
      RegsSameBut s t [bank s.flag.p .sp] ∧ MemSameBut s t [p, p + 1#16] ∧ t.flag = s.flag ∧ DevicesSame s t ∧
      t.pc = s.pc + 2#16

/-- POP loads Rd from the word at SP and moves SP past it (46_stack_return R185, R187). -/
def Obligations.PopLoadsRegister : Prop :=
  ∀ (s : State) (rd : Reg) (v : Word), ¬ IsStackPointer s rd → s.loadWord .read (s.reg .sp) = .ok v →
    ∃ t, exec (.pop rd) s = .next t ∧ t.reg rd = v ∧ t.reg .sp = s.reg .sp + 2#16 ∧
      WritesOnly s t [bank s.flag.p .sp, bank s.flag.p rd] ∧ CondSame s t ∧ t.pc = s.pc + 2#16

/-- PUSH of one register and POP of another copies the register and restores SP (46_stack_return R185-R187). -/
def Obligations.PushThenPop : Prop :=
  ∀ (s : State) (r q : Reg), ¬ IsStackPointer s r → ¬ IsStackPointer s q → s.mmuEn = false →
    isOdd (s.reg .sp) = false → writable (s.reg .sp - 2#16) = true →
    ∃ t u, exec (.push r) s = .next t ∧ exec (.pop q) t = .next u ∧ u.reg q = s.reg r ∧ u.reg .sp = s.reg .sp ∧
      RegsSameBut s u [bank s.flag.p q]

/-- RET goes to the word at SP and moves SP past it (46_stack_return R188). -/
def Obligations.RetPopsPc : Prop :=
  ∀ (s : State) (v : Word), s.loadWord .read (s.reg .sp) = .ok v →
    ∃ t, exec .ret s = .next t ∧ t.pc = v ∧ t.reg .sp = s.reg .sp + 2#16 ∧ WritesOnly s t [bank s.flag.p .sp] ∧
      CondSame s t

/-- RETI in privileged mode: FLAG from the word at SSP without bits 15:8 and 4, PC from the next word, SSP plus 4, nothing
else (46_stack_return R189, 60_exceptions R211). -/
def Obligations.RetiRestoresPsw : Prop :=
  ∀ (s : State) (f v : Word), s.flag.p = true → s.loadWord .read s.regs.ssp = .ok f →
    s.loadWord .read (s.regs.ssp + 2#16) = .ok v →
    ∃ t, exec .reti s = .next t ∧ t.flag.toWord = f &&& 0x00EF#16 ∧ t.pc = v ∧ t.regs.ssp = s.regs.ssp + 4#16 ∧
      RegsSameBut s t [.ssp] ∧ MemSame s t ∧ DevicesSame s t

/-- RETI in user mode, where the spec leaves RETI_USER open: either it pops PC from USP and moves USP by 4 (and FLAG is the
parameter's), or it raises PrivViolation with none of its effects (46_stack_return R189; the two are the model's reading
of the parameter, log 19). -/
def Obligations.RetiInUserMode : Prop :=
  ∀ (s : State) (f v : Word), s.flag.p = false → s.loadWord .read s.regs.usp = .ok f →
    s.loadWord .read (s.regs.usp + 2#16) = .ok v → (∀ spc, SavedPc s 2#16 spc → TrapReady s 13#4 spc) →
    ∃ t, exec .reti s = .next t ∧
      ((t.pc = v ∧ t.regs.usp = s.regs.usp + 4#16 ∧ RegsSameBut s t [.usp] ∧ MemSame s t ∧ DevicesSame s t) ∨
        ∃ spc, SavedPc s 2#16 spc ∧ TrapTaken s t 13#4 spc)

/-! ## EI, DI, SVC, HALT -/

/-- EI sets E and DI clears it in privileged mode, and nothing else but PC changes (47_system R192, R193). -/
def Obligations.EiDiWriteE : Prop :=
  ∀ s : State, s.flag.p = true →
    exec .ei s = .next ((s.setFlags { s.flag with e := true }).setPc (s.pc + 2#16)) ∧
      exec .di s = .next ((s.setFlags { s.flag with e := false }).setPc (s.pc + 2#16))

/-- HALT in privileged mode stops the machine with every register and flag as it is, and no further step changes anything
(47_system R195). That PC is past the HALT, and that the halted state is final, are D37 and D22: log 34. -/
def Obligations.HaltStops : Prop :=
  ∀ s : State, s.flag.p = true →
    ∃ t, exec .halt s = .next t ∧ t = { s with halted := true, pc := s.pc + 2#16 } ∧ step t = .next t

/-- EI, DI and HALT in user mode: where the open PRIV_SET holds the instruction, PrivViolation through FFFAh with none of its
effects, and where it does not, the effect (47_system R196; log 6). -/
def Obligations.PrivilegedInUserMode : Prop :=
  ∀ s : State, s.flag.p = false → (∀ spc, SavedPc s 2#16 spc → TrapReady s 13#4 spc) →
    (Config.privSet .ei = true ∧ (∃ spc t, SavedPc s 2#16 spc ∧ exec .ei s = .next t ∧ TrapTaken s t 13#4 spc) ∨
      Config.privSet .ei = false ∧
        exec .ei s = .next ((s.setFlags { s.flag with e := true }).setPc (s.pc + 2#16))) ∧
    (Config.privSet .di = true ∧ (∃ spc t, SavedPc s 2#16 spc ∧ exec .di s = .next t ∧ TrapTaken s t 13#4 spc) ∨
      Config.privSet .di = false ∧
        exec .di s = .next ((s.setFlags { s.flag with e := false }).setPc (s.pc + 2#16))) ∧
    (Config.privSet .halt = true ∧ (∃ spc t, SavedPc s 2#16 spc ∧ exec .halt s = .next t ∧ TrapTaken s t 13#4 spc) ∨
      Config.privSet .halt = false ∧ exec .halt s = .next { s with halted := true, pc := s.pc + 2#16 })

/-- SVC takes trap entry through FFFEh with the address of the next instruction saved, in both modes (47_system R194,
60_exceptions R208). -/
def Obligations.SvcEntersTrap : Prop :=
  ∀ s : State, TrapReady s 15#4 (s.pc + 2#16) →
    ∃ t, exec .svc s = .next t ∧ TrapTaken s t 15#4 (s.pc + 2#16)

/-- SVC and then RETI continues after the SVC with FLAG and every register as before (60_exceptions R208, R211). -/
def Obligations.SvcThenReti : Prop :=
  ∀ s : State, TrapReady s 15#4 (s.pc + 2#16) →
    ∃ t u, exec .svc s = .next t ∧ exec .reti t = .next u ∧ u.pc = s.pc + 2#16 ∧ u.flag = s.flag ∧ u.regs = s.regs

/-! ## IN and OUT -/

/-- IN and OUT without P or I raise PrivViolation before any I/O access and with none of their effects, unless the open
PRIV_SET leaves them out, which is not its default (45_io R183, 47_system R196; log 6, 11). -/
def Obligations.IoNeedsPrivilege : Prop :=
  ∀ (s : State) (rd : Reg) (p : Port) (x : PrivOp) (i : Instr),
    x = .inp ∧ i = .inp rd p ∨ x = .out ∧ i = .out rd p →
    s.flag.p = false → s.flag.i = false → (∀ spc, SavedPc s (portLen p) spc → TrapReady s 13#4 spc) →
    Config.privSet x = false ∨
      ∃ spc t, SavedPc s (portLen p) spc ∧ exec i s = .next t ∧ TrapTaken s t 13#4 spc

/-- IN gives Rd the bytes of the port, the even address the upper one, a single byte extended by zeros (45_io R180, 20_memory
R55). Model's choices in it: a byte is extended by zeros whatever BYTE_LOAD_EXT is (log 5); P or I is enough, or a PRIV_SET
without IN (log 6); what IN does to the device shows in the input ports only at the next boundary (log 24); it raises no
request, and may clear some (log 31). -/
def Obligations.InReadsPort : Prop :=
  ∀ (s : State) (rd : Reg) (p : Port), s.flag.p = true ∨ s.flag.i = true ∨ Config.privSet .inp = false →
    (s.portAddr p).toNat ≤ 0xFF →
    portByte p = true ∨ (s.portAddr p).toNat % 2 = 0 →
    ∃ t, exec (.inp rd p) s = .next t ∧
      (portByte p = true → (t.reg rd).toNat = (s.ioByte (loByte (s.portAddr p))).toNat) ∧
      (portByte p = false →
        (t.reg rd).toNat = 256 * (s.ioByte (loByte (s.portAddr p))).toNat +
          (s.ioByte (loByte (s.portAddr p) + 1#8)).toNat) ∧
      RegsSameBut s t [bank s.flag.p rd] ∧ IoFrame s t ∧
      t.mmuEn = s.mmuEn ∧ t.mmuBase = s.mmuBase ∧ t.mmuLimit = s.mmuLimit ∧ t.out = s.out ∧ t.usd = s.usd ∧
      t.ioLog = s.ioLog ∧ t.pc = s.pc + portLen p

/-- OUT completes, is recorded as an event, and changes no register, flag or memory; the device and MMU registers are those
that the write of its byte or word to the port leaves, which PortWrites says row by row (45_io R181, 20_memory R61).
Model's choices in it: P or I is enough, or a PRIV_SET without OUT (log 6); what OUT does to the device shows in the input
ports only at the next boundary (log 24); it raises no request, and may clear some (log 31). -/
def Obligations.OutWritesPort : Prop :=
  ∀ (s : State) (rd : Reg) (p : Port), s.flag.p = true ∨ s.flag.i = true ∨ Config.privSet .out = false →
    (s.portAddr p).toNat ≤ 0xFF →
    portByte p = true ∨ (s.portAddr p).toNat % 2 = 0 →
    ∃ t, exec (.out rd p) s = .next t ∧ t.regs = s.regs ∧ IoFrame s t ∧ t.pc = s.pc + portLen p ∧
      (∃ v, t.ioLog = { addr := loByte (s.portAddr p), byte := portByte p, value := v } :: s.ioLog ∧
        loByte v = loByte (s.reg rd) ∧ (portByte p = false → v = s.reg rd) ∧ (portByte p = true → hiByte v = 0#8)) ∧
      t.out = (s.ioStore (portByte p) (loByte (s.portAddr p)) (s.reg rd)).out ∧
      t.mmuEn = (s.ioStore (portByte p) (loByte (s.portAddr p)) (s.reg rd)).mmuEn ∧
      t.mmuBase = (s.ioStore (portByte p) (loByte (s.portAddr p)) (s.reg rd)).mmuBase ∧
      t.mmuLimit = (s.ioStore (portByte p) (loByte (s.portAddr p)) (s.reg rd)).mmuLimit ∧
      t.usd = (s.ioStore (portByte p) (loByte (s.portAddr p)) (s.reg rd)).usd

/-- What reads of the rows of the I/O map that have an input register give: the bits that 60_exceptions R222-R233 draw, the
00H bytes zero, and a byte access the half at its address (20_memory R54, R55). That the bits drawn 0 read as 0 is log 27,
that RN4020-Cmd reads 0001 until it is written log 28, and that the mode is the register of State log 29. -/
def Obligations.PortReads : Prop :=
  ∀ s : State,
    s.ioValue false 0x00#8 = s.inp.timer0Value ∧ s.ioValue false 0x02#8 = s.inp.timer0Flag ∧
      s.ioValue false 0x04#8 = s.inp.timer1Value ∧ s.ioValue false 0x06#8 = s.inp.timer1Flag ∧
      (s.ioValue false 0x08#8).toNat = s.inp.ft232rlData.toNat ∧
      (s.ioValue false 0x0A#8).toNat = 128 * s.inp.ft232rlStat.t.toNat + 64 * s.inp.ft232rlStat.r.toNat ∧
      (s.ioValue false 0x0C#8).toNat = s.inp.tecData.toNat ∧
      (s.ioValue false 0x0E#8).toNat = 128 * s.inp.tecStat.t.toNat + 64 * s.inp.tecStat.r.toNat ∧
      (s.ioValue false 0x10#8).toNat = 8 * s.inp.usdStat.idle.toNat + 4 * s.inp.usdStat.error.toNat ∧
      (s.ioValue false 0x18#8).toNat = s.inp.extIn.toNat ∧ (s.ioValue false 0x1E#8).toNat = s.mode.toNat ∧
      (s.ioValue false 0x20#8).toNat = s.inp.adc0.toNat ∧ (s.ioValue false 0x22#8).toNat = s.inp.adc1.toNat ∧
      (s.ioValue false 0x24#8).toNat = s.inp.adc2.toNat ∧ (s.ioValue false 0x26#8).toNat = s.inp.adc3.toNat ∧
      (s.ioValue false 0x28#8).toNat = s.inp.rn4020Data.toNat ∧
      (s.ioValue false 0x2A#8).toNat = 128 * s.inp.rn4020Stat.t.toNat + 64 * s.inp.rn4020Stat.r.toNat ∧
      (s.ioValue false 0x2C#8).toNat < 16 ∧
      (s.Inv → s.out.rn4020CmdWritten = false → s.ioValue false 0x2C#8 = 0x0001#16) ∧
      s.ioValue false 0xF8#8 = s.inp.dataSw ∧ s.ioValue false 0xFA#8 = s.inp.consoleAddr ∧
      (s.ioValue false 0xFC#8).toNat = s.inp.rotary.toNat ∧ (s.ioValue false 0xFE#8).toNat = s.inp.func.toNat ∧
      (∀ a ∈ [0x1A#8, 0x1C#8, 0x2E#8], hiByte (s.ioValue false a) = 0#8) ∧
      ∀ a : Byte, a.toNat % 2 = 0 → s.ioValue true a = zextByte (hiByte (s.ioValue false a)) ∧
        s.ioValue true (a + 1#8) = zextByte (loByte (s.ioValue false a))

/-- What writes to the rows of the I/O map change, by OUT of 16 bits and by OUT of 8 (mode 7): the register of the port, or the
half of it, and nothing else (20_memory R54, R55; 10_state R38; 60_exceptions R222-R234). READ and WRITE of uSD-Ctrl start a
transfer: log 33. That the upper byte of a row with an 8-bit port is ignored, that input-only, free and reserved rows take a
write without effect on State, that a byte write to a word port reaches the half at its address, and one to the 00H byte of
a row nothing, is log 26; that bits drawn 0 are not stored is log 27. -/
def Obligations.PortWrites : Prop :=
  ∀ (s : State) (v : Word),
    s.ioStore false 0x00#8 v = s.setOut { s.out with timer0Period := v } ∧
      s.ioStore false 0x02#8 v = s.setOut { s.out with timer0Ctrl := v } ∧
      s.ioStore false 0x04#8 v = s.setOut { s.out with timer1Period := v } ∧
      s.ioStore false 0x06#8 v = s.setOut { s.out with timer1Ctrl := v } ∧
      s.ioStore false 0x08#8 v = s.setOut { s.out with ft232rlTx := loByte v } ∧
      s.ioStore false 0x0A#8 v = s.setOut { s.out with ft232rlCtrl := { t := v.getLsbD 7, r := v.getLsbD 6 } } ∧
      s.ioStore false 0x0C#8 v = s.setOut { s.out with tecTx := loByte v } ∧
      s.ioStore false 0x0E#8 v = s.setOut { s.out with tecCtrl := { t := v.getLsbD 7, r := v.getLsbD 6 } } ∧
      (v.getLsbD 0 = false → v.getLsbD 1 = false →
        s.ioStore false 0x10#8 v = s.setOut { s.out with usdCtrl := v.setWidth 4 }) ∧
      (v.getLsbD 0 = true ∨ v.getLsbD 1 = true →
        s.ioStore false 0x10#8 v =
          { s.setOut { s.out with usdCtrl := v.setWidth 4 } with
            usd := some { toMemory := v.getLsbD 1, memAddr := s.out.usdMemAddr,
                          blkAddr := s.out.usdBlkAddrH ++ s.out.usdBlkAddrL } }) ∧
      s.ioStore false 0x12#8 v = s.setOut { s.out with usdMemAddr := v } ∧
      s.ioStore false 0x14#8 v = s.setOut { s.out with usdBlkAddrH := v } ∧
      s.ioStore false 0x16#8 v = s.setOut { s.out with usdBlkAddrL := v } ∧
      s.ioStore false 0x18#8 v = s.setOut { s.out with extOut := loByte v } ∧
      s.ioStore false 0x1A#8 v = s.setOut { s.out with adcRef := loByte v } ∧
      s.ioStore false 0x1C#8 v =
        s.setOut { s.out with extHiOutput := v.getLsbD 7, extHiValue := v.setWidth 4 } ∧
      s.ioStore false 0x28#8 v = s.setOut { s.out with rn4020Tx := loByte v } ∧
      s.ioStore false 0x2A#8 v = s.setOut { s.out with rn4020Ctrl := { t := v.getLsbD 7, r := v.getLsbD 6 } } ∧
      s.ioStore false 0x2C#8 v =
        s.setOut { s.out with rn4020Cmd := v.setWidth 4, rn4020CmdWritten := true } ∧
      s.ioStore false 0xF0#8 v = s.setMmu (v.getLsbD 0) s.mmuBase s.mmuLimit ∧
      s.ioStore false 0xF4#8 v = s.setMmu s.mmuEn v s.mmuLimit ∧
      s.ioStore false 0xF6#8 v = s.setMmu s.mmuEn s.mmuBase v ∧
      s.ioStore false 0xF8#8 v = s.setOut { s.out with consoleData := v } ∧
      s.ioStore true 0x00#8 v = s.setOut { s.out with timer0Period := setHiByte s.out.timer0Period (loByte v) } ∧
      s.ioStore true 0x01#8 v = s.setOut { s.out with timer0Period := setLoByte s.out.timer0Period (loByte v) } ∧
      s.ioStore true 0x02#8 v = s.setOut { s.out with timer0Ctrl := setHiByte s.out.timer0Ctrl (loByte v) } ∧
      s.ioStore true 0x03#8 v = s.setOut { s.out with timer0Ctrl := setLoByte s.out.timer0Ctrl (loByte v) } ∧
      s.ioStore true 0x04#8 v = s.setOut { s.out with timer1Period := setHiByte s.out.timer1Period (loByte v) } ∧
      s.ioStore true 0x05#8 v = s.setOut { s.out with timer1Period := setLoByte s.out.timer1Period (loByte v) } ∧
      s.ioStore true 0x06#8 v = s.setOut { s.out with timer1Ctrl := setHiByte s.out.timer1Ctrl (loByte v) } ∧
      s.ioStore true 0x07#8 v = s.setOut { s.out with timer1Ctrl := setLoByte s.out.timer1Ctrl (loByte v) } ∧
      s.ioStore true 0x12#8 v = s.setOut { s.out with usdMemAddr := setHiByte s.out.usdMemAddr (loByte v) } ∧
      s.ioStore true 0x13#8 v = s.setOut { s.out with usdMemAddr := setLoByte s.out.usdMemAddr (loByte v) } ∧
      s.ioStore true 0x14#8 v = s.setOut { s.out with usdBlkAddrH := setHiByte s.out.usdBlkAddrH (loByte v) } ∧
      s.ioStore true 0x15#8 v = s.setOut { s.out with usdBlkAddrH := setLoByte s.out.usdBlkAddrH (loByte v) } ∧
      s.ioStore true 0x16#8 v = s.setOut { s.out with usdBlkAddrL := setHiByte s.out.usdBlkAddrL (loByte v) } ∧
      s.ioStore true 0x17#8 v = s.setOut { s.out with usdBlkAddrL := setLoByte s.out.usdBlkAddrL (loByte v) } ∧
      s.ioStore true 0xF8#8 v = s.setOut { s.out with consoleData := setHiByte s.out.consoleData (loByte v) } ∧
      s.ioStore true 0xF9#8 v = s.setOut { s.out with consoleData := setLoByte s.out.consoleData (loByte v) } ∧
      s.ioStore true 0xF4#8 v = s.setMmu s.mmuEn (setHiByte s.mmuBase (loByte v)) s.mmuLimit ∧
      s.ioStore true 0xF5#8 v = s.setMmu s.mmuEn (setLoByte s.mmuBase (loByte v)) s.mmuLimit ∧
      s.ioStore true 0xF6#8 v = s.setMmu s.mmuEn s.mmuBase (setHiByte s.mmuLimit (loByte v)) ∧
      s.ioStore true 0xF7#8 v = s.setMmu s.mmuEn s.mmuBase (setLoByte s.mmuLimit (loByte v)) ∧
      (∀ a ∈ [0x08#8, 0x0A#8, 0x0C#8, 0x0E#8, 0x10#8, 0x18#8, 0x1A#8, 0x1C#8, 0x28#8, 0x2A#8, 0x2C#8, 0xF0#8],
        s.ioStore true a v = s ∧ s.ioStore true (a + 1#8) v = s.ioStore false a v) ∧
      (∀ a ∈ [0x1E#8, 0x20#8, 0x22#8, 0x24#8, 0x26#8, 0x2E#8, 0xF2#8, 0xFA#8, 0xFC#8, 0xFE#8],
        s.ioStore false a v = s ∧ s.ioStore true a v = s ∧ s.ioStore true (a + 1#8) v = s) ∧
      (∀ a : Byte, 0x30 ≤ a.toNat → a.toNat ≤ 0xEE → s.ioStore false a v = s) ∧
      (∀ a : Byte, 0x30 ≤ a.toNat → a.toNat ≤ 0xEF → s.ioStore true a v = s)

/-! ## Whole-machine rules -/

/-- Every step keeps the invariant: memory in canonical form, RN4020-Cmd at its initial value until it is written. -/
def Obligations.StepKeepsInvariant : Prop := ∀ s t : State, s.Inv → step s = .next t → t.Inv

/-- Every byte of memory that a step changes, by an instruction, a trap entry or the uSD agent, is Writable. So no step
changes the IPL ROM, F000h-FFDFh, where the open Writable is the spec's default (20_memory R52, R61; log 15). -/
def Obligations.StepChangesOnlyWritable : Prop :=
  ∀ (s t : State) (a : Word), step s = .next t → t.byteAt a ≠ s.byteAt a → writable a = true

/-- Privileged mode is left only by RETI, with bit 6 of the popped word clear (60_exceptions R216). -/
def Obligations.OnlyRetiLeavesPrivilegedMode : Prop :=
  ∀ s t : State, step s = .next t → s.flag.p = true → t.flag.p = false →
    s.fetch = .instr .reti ∧ ∃ f, s.loadWord .read s.regs.ssp = .ok f ∧ f.getLsbD 6 = false

/-- A step that stays in user mode does not change SSP: it cannot be named there (60_exceptions R215). -/
def Obligations.UserModeKeepsSsp : Prop :=
  ∀ s t : State, step s = .next t → s.flag.p = false → t.flag.p = false → t.regs.ssp = s.regs.ssp

/-- What writes the mode bits (10_state R36). I changes only by RETI. E is set only by EI and RETI, and cleared only by DI,
RETI and trap entry. P is set only by RETI and by trap entry, which moves SSP down by 4, and cleared only by RETI. -/
def Obligations.ModeBitWriters : Prop :=
  ∀ s t : State, step s = .next t →
    (t.flag.i ≠ s.flag.i → s.fetch = .instr .reti) ∧
    (s.flag.e = false → t.flag.e = true → s.fetch = .instr .ei ∨ s.fetch = .instr .reti) ∧
    (s.flag.e = true → t.flag.e = false → s.fetch = .instr .di ∨ s.fetch = .instr .reti ∨ EntersTrap s t) ∧
    (s.flag.p = false → t.flag.p = true →
      s.fetch = .instr .reti ∨ EntersTrap s t ∧ t.regs.ssp = s.regs.ssp - 4#16) ∧
    (s.flag.p = true → t.flag.p = false → s.fetch = .instr .reti)
end

