-- ==== Sys2Proof/Laws/State.lean ====
section
/-! SUPPORT. One lemma per field of State per update, and the registers' read after write. -/

namespace Sys2Proof.Machine

section Updates

variable (s : State)

@[simp] theorem State.setPReg_regs (p : PReg) (v : Word) : (s.setPReg p v).regs = s.regs.set p v := rfl
@[simp] theorem State.setPReg_pc (p : PReg) (v : Word) : (s.setPReg p v).pc = s.pc := rfl
@[simp] theorem State.setPReg_flag (p : PReg) (v : Word) : (s.setPReg p v).flag = s.flag := rfl
@[simp] theorem State.setPReg_mem (p : PReg) (v : Word) : (s.setPReg p v).mem = s.mem := rfl
@[simp] theorem State.setPReg_mmuEn (p : PReg) (v : Word) : (s.setPReg p v).mmuEn = s.mmuEn := rfl
@[simp] theorem State.setPReg_mmuBase (p : PReg) (v : Word) : (s.setPReg p v).mmuBase = s.mmuBase := rfl
@[simp] theorem State.setPReg_mmuLimit (p : PReg) (v : Word) : (s.setPReg p v).mmuLimit = s.mmuLimit := rfl
@[simp] theorem State.setPReg_pending (p : PReg) (v : Word) : (s.setPReg p v).pending = s.pending := rfl
@[simp] theorem State.setPReg_halted (p : PReg) (v : Word) : (s.setPReg p v).halted = s.halted := rfl
@[simp] theorem State.setPReg_mode (p : PReg) (v : Word) : (s.setPReg p v).mode = s.mode := rfl
@[simp] theorem State.setPReg_inp (p : PReg) (v : Word) : (s.setPReg p v).inp = s.inp := rfl
@[simp] theorem State.setPReg_out (p : PReg) (v : Word) : (s.setPReg p v).out = s.out := rfl
@[simp] theorem State.setPReg_usd (p : PReg) (v : Word) : (s.setPReg p v).usd = s.usd := rfl
@[simp] theorem State.setPReg_ioLog (p : PReg) (v : Word) : (s.setPReg p v).ioLog = s.ioLog := rfl
@[simp] theorem State.setPReg_tick (p : PReg) (v : Word) : (s.setPReg p v).tick = s.tick := rfl

@[simp] theorem State.setReg_regs (r : Reg) (v : Word) : (s.setReg r v).regs = s.regs.set (bank s.flag.p r) v := rfl
@[simp] theorem State.setReg_pc (r : Reg) (v : Word) : (s.setReg r v).pc = s.pc := rfl
@[simp] theorem State.setReg_flag (r : Reg) (v : Word) : (s.setReg r v).flag = s.flag := rfl
@[simp] theorem State.setReg_mem (r : Reg) (v : Word) : (s.setReg r v).mem = s.mem := rfl
@[simp] theorem State.setReg_mmuEn (r : Reg) (v : Word) : (s.setReg r v).mmuEn = s.mmuEn := rfl
@[simp] theorem State.setReg_mmuBase (r : Reg) (v : Word) : (s.setReg r v).mmuBase = s.mmuBase := rfl
@[simp] theorem State.setReg_mmuLimit (r : Reg) (v : Word) : (s.setReg r v).mmuLimit = s.mmuLimit := rfl
@[simp] theorem State.setReg_pending (r : Reg) (v : Word) : (s.setReg r v).pending = s.pending := rfl
@[simp] theorem State.setReg_halted (r : Reg) (v : Word) : (s.setReg r v).halted = s.halted := rfl
@[simp] theorem State.setReg_mode (r : Reg) (v : Word) : (s.setReg r v).mode = s.mode := rfl
@[simp] theorem State.setReg_inp (r : Reg) (v : Word) : (s.setReg r v).inp = s.inp := rfl
@[simp] theorem State.setReg_out (r : Reg) (v : Word) : (s.setReg r v).out = s.out := rfl
@[simp] theorem State.setReg_usd (r : Reg) (v : Word) : (s.setReg r v).usd = s.usd := rfl
@[simp] theorem State.setReg_ioLog (r : Reg) (v : Word) : (s.setReg r v).ioLog = s.ioLog := rfl
@[simp] theorem State.setReg_tick (r : Reg) (v : Word) : (s.setReg r v).tick = s.tick := rfl

@[simp] theorem State.setPc_regs (a : Word) : (s.setPc a).regs = s.regs := rfl
@[simp] theorem State.setPc_pc (a : Word) : (s.setPc a).pc = a := rfl
@[simp] theorem State.setPc_flag (a : Word) : (s.setPc a).flag = s.flag := rfl
@[simp] theorem State.setPc_mem (a : Word) : (s.setPc a).mem = s.mem := rfl
@[simp] theorem State.setPc_mmuEn (a : Word) : (s.setPc a).mmuEn = s.mmuEn := rfl
@[simp] theorem State.setPc_mmuBase (a : Word) : (s.setPc a).mmuBase = s.mmuBase := rfl
@[simp] theorem State.setPc_mmuLimit (a : Word) : (s.setPc a).mmuLimit = s.mmuLimit := rfl
@[simp] theorem State.setPc_pending (a : Word) : (s.setPc a).pending = s.pending := rfl
@[simp] theorem State.setPc_halted (a : Word) : (s.setPc a).halted = s.halted := rfl
@[simp] theorem State.setPc_mode (a : Word) : (s.setPc a).mode = s.mode := rfl
@[simp] theorem State.setPc_inp (a : Word) : (s.setPc a).inp = s.inp := rfl
@[simp] theorem State.setPc_out (a : Word) : (s.setPc a).out = s.out := rfl
@[simp] theorem State.setPc_usd (a : Word) : (s.setPc a).usd = s.usd := rfl
@[simp] theorem State.setPc_ioLog (a : Word) : (s.setPc a).ioLog = s.ioLog := rfl
@[simp] theorem State.setPc_tick (a : Word) : (s.setPc a).tick = s.tick := rfl

@[simp] theorem State.advance_regs (n : Word) : (s.advance n).regs = s.regs := rfl
@[simp] theorem State.advance_pc (n : Word) : (s.advance n).pc = s.pc + n := rfl
@[simp] theorem State.advance_flag (n : Word) : (s.advance n).flag = s.flag := rfl
@[simp] theorem State.advance_mem (n : Word) : (s.advance n).mem = s.mem := rfl
@[simp] theorem State.advance_mmuEn (n : Word) : (s.advance n).mmuEn = s.mmuEn := rfl
@[simp] theorem State.advance_mmuBase (n : Word) : (s.advance n).mmuBase = s.mmuBase := rfl
@[simp] theorem State.advance_mmuLimit (n : Word) : (s.advance n).mmuLimit = s.mmuLimit := rfl
@[simp] theorem State.advance_pending (n : Word) : (s.advance n).pending = s.pending := rfl
@[simp] theorem State.advance_halted (n : Word) : (s.advance n).halted = s.halted := rfl
@[simp] theorem State.advance_mode (n : Word) : (s.advance n).mode = s.mode := rfl
@[simp] theorem State.advance_inp (n : Word) : (s.advance n).inp = s.inp := rfl
@[simp] theorem State.advance_out (n : Word) : (s.advance n).out = s.out := rfl
@[simp] theorem State.advance_usd (n : Word) : (s.advance n).usd = s.usd := rfl
@[simp] theorem State.advance_ioLog (n : Word) : (s.advance n).ioLog = s.ioLog := rfl
@[simp] theorem State.advance_tick (n : Word) : (s.advance n).tick = s.tick := rfl

@[simp] theorem State.setFlags_regs (f : Flags) : (s.setFlags f).regs = s.regs := rfl
@[simp] theorem State.setFlags_pc (f : Flags) : (s.setFlags f).pc = s.pc := rfl
@[simp] theorem State.setFlags_flag (f : Flags) : (s.setFlags f).flag = f := rfl
@[simp] theorem State.setFlags_mem (f : Flags) : (s.setFlags f).mem = s.mem := rfl
@[simp] theorem State.setFlags_mmuEn (f : Flags) : (s.setFlags f).mmuEn = s.mmuEn := rfl
@[simp] theorem State.setFlags_mmuBase (f : Flags) : (s.setFlags f).mmuBase = s.mmuBase := rfl
@[simp] theorem State.setFlags_mmuLimit (f : Flags) : (s.setFlags f).mmuLimit = s.mmuLimit := rfl
@[simp] theorem State.setFlags_pending (f : Flags) : (s.setFlags f).pending = s.pending := rfl
@[simp] theorem State.setFlags_halted (f : Flags) : (s.setFlags f).halted = s.halted := rfl
@[simp] theorem State.setFlags_mode (f : Flags) : (s.setFlags f).mode = s.mode := rfl
@[simp] theorem State.setFlags_inp (f : Flags) : (s.setFlags f).inp = s.inp := rfl
@[simp] theorem State.setFlags_out (f : Flags) : (s.setFlags f).out = s.out := rfl
@[simp] theorem State.setFlags_usd (f : Flags) : (s.setFlags f).usd = s.usd := rfl
@[simp] theorem State.setFlags_ioLog (f : Flags) : (s.setFlags f).ioLog = s.ioLog := rfl
@[simp] theorem State.setFlags_tick (f : Flags) : (s.setFlags f).tick = s.tick := rfl

@[simp] theorem State.setCond_regs (c : Cond) : (s.setCond c).regs = s.regs := rfl
@[simp] theorem State.setCond_pc (c : Cond) : (s.setCond c).pc = s.pc := rfl
@[simp] theorem State.setCond_flag (c : Cond) : (s.setCond c).flag = s.flag.withCond c := rfl
@[simp] theorem State.setCond_mem (c : Cond) : (s.setCond c).mem = s.mem := rfl
@[simp] theorem State.setCond_mmuEn (c : Cond) : (s.setCond c).mmuEn = s.mmuEn := rfl
@[simp] theorem State.setCond_mmuBase (c : Cond) : (s.setCond c).mmuBase = s.mmuBase := rfl
@[simp] theorem State.setCond_mmuLimit (c : Cond) : (s.setCond c).mmuLimit = s.mmuLimit := rfl
@[simp] theorem State.setCond_pending (c : Cond) : (s.setCond c).pending = s.pending := rfl
@[simp] theorem State.setCond_halted (c : Cond) : (s.setCond c).halted = s.halted := rfl
@[simp] theorem State.setCond_mode (c : Cond) : (s.setCond c).mode = s.mode := rfl
@[simp] theorem State.setCond_inp (c : Cond) : (s.setCond c).inp = s.inp := rfl
@[simp] theorem State.setCond_out (c : Cond) : (s.setCond c).out = s.out := rfl
@[simp] theorem State.setCond_usd (c : Cond) : (s.setCond c).usd = s.usd := rfl
@[simp] theorem State.setCond_ioLog (c : Cond) : (s.setCond c).ioLog = s.ioLog := rfl
@[simp] theorem State.setCond_tick (c : Cond) : (s.setCond c).tick = s.tick := rfl

@[simp] theorem State.setMem_regs (m : Memory) : (s.setMem m).regs = s.regs := rfl
@[simp] theorem State.setMem_pc (m : Memory) : (s.setMem m).pc = s.pc := rfl
@[simp] theorem State.setMem_flag (m : Memory) : (s.setMem m).flag = s.flag := rfl
@[simp] theorem State.setMem_mem (m : Memory) : (s.setMem m).mem = m := rfl
@[simp] theorem State.setMem_mmuEn (m : Memory) : (s.setMem m).mmuEn = s.mmuEn := rfl
@[simp] theorem State.setMem_mmuBase (m : Memory) : (s.setMem m).mmuBase = s.mmuBase := rfl
@[simp] theorem State.setMem_mmuLimit (m : Memory) : (s.setMem m).mmuLimit = s.mmuLimit := rfl
@[simp] theorem State.setMem_pending (m : Memory) : (s.setMem m).pending = s.pending := rfl
@[simp] theorem State.setMem_halted (m : Memory) : (s.setMem m).halted = s.halted := rfl
@[simp] theorem State.setMem_mode (m : Memory) : (s.setMem m).mode = s.mode := rfl
@[simp] theorem State.setMem_inp (m : Memory) : (s.setMem m).inp = s.inp := rfl
@[simp] theorem State.setMem_out (m : Memory) : (s.setMem m).out = s.out := rfl
@[simp] theorem State.setMem_usd (m : Memory) : (s.setMem m).usd = s.usd := rfl
@[simp] theorem State.setMem_ioLog (m : Memory) : (s.setMem m).ioLog = s.ioLog := rfl
@[simp] theorem State.setMem_tick (m : Memory) : (s.setMem m).tick = s.tick := rfl

@[simp] theorem State.setByte_regs (a : Word) (v : Byte) : (s.setByte a v).regs = s.regs := rfl
@[simp] theorem State.setByte_pc (a : Word) (v : Byte) : (s.setByte a v).pc = s.pc := rfl
@[simp] theorem State.setByte_flag (a : Word) (v : Byte) : (s.setByte a v).flag = s.flag := rfl
@[simp] theorem State.setByte_mem (a : Word) (v : Byte) : (s.setByte a v).mem = s.mem.write a.toNat v := rfl
@[simp] theorem State.setByte_mmuEn (a : Word) (v : Byte) : (s.setByte a v).mmuEn = s.mmuEn := rfl
@[simp] theorem State.setByte_mmuBase (a : Word) (v : Byte) : (s.setByte a v).mmuBase = s.mmuBase := rfl
@[simp] theorem State.setByte_mmuLimit (a : Word) (v : Byte) : (s.setByte a v).mmuLimit = s.mmuLimit := rfl
@[simp] theorem State.setByte_pending (a : Word) (v : Byte) : (s.setByte a v).pending = s.pending := rfl
@[simp] theorem State.setByte_halted (a : Word) (v : Byte) : (s.setByte a v).halted = s.halted := rfl
@[simp] theorem State.setByte_mode (a : Word) (v : Byte) : (s.setByte a v).mode = s.mode := rfl
@[simp] theorem State.setByte_inp (a : Word) (v : Byte) : (s.setByte a v).inp = s.inp := rfl
@[simp] theorem State.setByte_out (a : Word) (v : Byte) : (s.setByte a v).out = s.out := rfl
@[simp] theorem State.setByte_usd (a : Word) (v : Byte) : (s.setByte a v).usd = s.usd := rfl
@[simp] theorem State.setByte_ioLog (a : Word) (v : Byte) : (s.setByte a v).ioLog = s.ioLog := rfl
@[simp] theorem State.setByte_tick (a : Word) (v : Byte) : (s.setByte a v).tick = s.tick := rfl

@[simp] theorem State.setWord_regs (a v : Word) : (s.setWord a v).regs = s.regs := rfl
@[simp] theorem State.setWord_pc (a v : Word) : (s.setWord a v).pc = s.pc := rfl
@[simp] theorem State.setWord_flag (a v : Word) : (s.setWord a v).flag = s.flag := rfl
@[simp] theorem State.setWord_mem (a v : Word) : (s.setWord a v).mem = (s.mem.write a.toNat (hiByte v)).write (a + 1#16).toNat (loByte v) := rfl
@[simp] theorem State.setWord_mmuEn (a v : Word) : (s.setWord a v).mmuEn = s.mmuEn := rfl
@[simp] theorem State.setWord_mmuBase (a v : Word) : (s.setWord a v).mmuBase = s.mmuBase := rfl
@[simp] theorem State.setWord_mmuLimit (a v : Word) : (s.setWord a v).mmuLimit = s.mmuLimit := rfl
@[simp] theorem State.setWord_pending (a v : Word) : (s.setWord a v).pending = s.pending := rfl
@[simp] theorem State.setWord_halted (a v : Word) : (s.setWord a v).halted = s.halted := rfl
@[simp] theorem State.setWord_mode (a v : Word) : (s.setWord a v).mode = s.mode := rfl
@[simp] theorem State.setWord_inp (a v : Word) : (s.setWord a v).inp = s.inp := rfl
@[simp] theorem State.setWord_out (a v : Word) : (s.setWord a v).out = s.out := rfl
@[simp] theorem State.setWord_usd (a v : Word) : (s.setWord a v).usd = s.usd := rfl
@[simp] theorem State.setWord_ioLog (a v : Word) : (s.setWord a v).ioLog = s.ioLog := rfl
@[simp] theorem State.setWord_tick (a v : Word) : (s.setWord a v).tick = s.tick := rfl

@[simp] theorem State.nextDraw_regs : (s.nextDraw).regs = s.regs := rfl
@[simp] theorem State.nextDraw_pc : (s.nextDraw).pc = s.pc := rfl
@[simp] theorem State.nextDraw_flag : (s.nextDraw).flag = s.flag := rfl
@[simp] theorem State.nextDraw_mem : (s.nextDraw).mem = s.mem := rfl
@[simp] theorem State.nextDraw_mmuEn : (s.nextDraw).mmuEn = s.mmuEn := rfl
@[simp] theorem State.nextDraw_mmuBase : (s.nextDraw).mmuBase = s.mmuBase := rfl
@[simp] theorem State.nextDraw_mmuLimit : (s.nextDraw).mmuLimit = s.mmuLimit := rfl
@[simp] theorem State.nextDraw_pending : (s.nextDraw).pending = s.pending := rfl
@[simp] theorem State.nextDraw_halted : (s.nextDraw).halted = s.halted := rfl
@[simp] theorem State.nextDraw_mode : (s.nextDraw).mode = s.mode := rfl
@[simp] theorem State.nextDraw_inp : (s.nextDraw).inp = s.inp := rfl
@[simp] theorem State.nextDraw_out : (s.nextDraw).out = s.out := rfl
@[simp] theorem State.nextDraw_usd : (s.nextDraw).usd = s.usd := rfl
@[simp] theorem State.nextDraw_ioLog : (s.nextDraw).ioLog = s.ioLog := rfl
@[simp] theorem State.nextDraw_tick : (s.nextDraw).tick = s.tick + 1 := rfl

@[simp] theorem State.setPending_regs (b : BitVec 10) : (s.setPending b).regs = s.regs := rfl
@[simp] theorem State.setPending_pc (b : BitVec 10) : (s.setPending b).pc = s.pc := rfl
@[simp] theorem State.setPending_flag (b : BitVec 10) : (s.setPending b).flag = s.flag := rfl
@[simp] theorem State.setPending_mem (b : BitVec 10) : (s.setPending b).mem = s.mem := rfl
@[simp] theorem State.setPending_mmuEn (b : BitVec 10) : (s.setPending b).mmuEn = s.mmuEn := rfl
@[simp] theorem State.setPending_mmuBase (b : BitVec 10) : (s.setPending b).mmuBase = s.mmuBase := rfl
@[simp] theorem State.setPending_mmuLimit (b : BitVec 10) : (s.setPending b).mmuLimit = s.mmuLimit := rfl
@[simp] theorem State.setPending_pending (b : BitVec 10) : (s.setPending b).pending = b := rfl
@[simp] theorem State.setPending_halted (b : BitVec 10) : (s.setPending b).halted = s.halted := rfl
@[simp] theorem State.setPending_mode (b : BitVec 10) : (s.setPending b).mode = s.mode := rfl
@[simp] theorem State.setPending_inp (b : BitVec 10) : (s.setPending b).inp = s.inp := rfl
@[simp] theorem State.setPending_out (b : BitVec 10) : (s.setPending b).out = s.out := rfl
@[simp] theorem State.setPending_usd (b : BitVec 10) : (s.setPending b).usd = s.usd := rfl
@[simp] theorem State.setPending_ioLog (b : BitVec 10) : (s.setPending b).ioLog = s.ioLog := rfl
@[simp] theorem State.setPending_tick (b : BitVec 10) : (s.setPending b).tick = s.tick := rfl

@[simp] theorem State.setOut_regs (o : Outputs) : (s.setOut o).regs = s.regs := rfl
@[simp] theorem State.setOut_pc (o : Outputs) : (s.setOut o).pc = s.pc := rfl
@[simp] theorem State.setOut_flag (o : Outputs) : (s.setOut o).flag = s.flag := rfl
@[simp] theorem State.setOut_mem (o : Outputs) : (s.setOut o).mem = s.mem := rfl
@[simp] theorem State.setOut_mmuEn (o : Outputs) : (s.setOut o).mmuEn = s.mmuEn := rfl
@[simp] theorem State.setOut_mmuBase (o : Outputs) : (s.setOut o).mmuBase = s.mmuBase := rfl
@[simp] theorem State.setOut_mmuLimit (o : Outputs) : (s.setOut o).mmuLimit = s.mmuLimit := rfl
@[simp] theorem State.setOut_pending (o : Outputs) : (s.setOut o).pending = s.pending := rfl
@[simp] theorem State.setOut_halted (o : Outputs) : (s.setOut o).halted = s.halted := rfl
@[simp] theorem State.setOut_mode (o : Outputs) : (s.setOut o).mode = s.mode := rfl
@[simp] theorem State.setOut_inp (o : Outputs) : (s.setOut o).inp = s.inp := rfl
@[simp] theorem State.setOut_out (o : Outputs) : (s.setOut o).out = o := rfl
@[simp] theorem State.setOut_usd (o : Outputs) : (s.setOut o).usd = s.usd := rfl
@[simp] theorem State.setOut_ioLog (o : Outputs) : (s.setOut o).ioLog = s.ioLog := rfl
@[simp] theorem State.setOut_tick (o : Outputs) : (s.setOut o).tick = s.tick := rfl

@[simp] theorem State.setMmu_regs (en : Bool) (b l : Word) : (s.setMmu en b l).regs = s.regs := rfl
@[simp] theorem State.setMmu_pc (en : Bool) (b l : Word) : (s.setMmu en b l).pc = s.pc := rfl
@[simp] theorem State.setMmu_flag (en : Bool) (b l : Word) : (s.setMmu en b l).flag = s.flag := rfl
@[simp] theorem State.setMmu_mem (en : Bool) (b l : Word) : (s.setMmu en b l).mem = s.mem := rfl
@[simp] theorem State.setMmu_mmuEn (en : Bool) (b l : Word) : (s.setMmu en b l).mmuEn = en := rfl
@[simp] theorem State.setMmu_mmuBase (en : Bool) (b l : Word) : (s.setMmu en b l).mmuBase = b := rfl
@[simp] theorem State.setMmu_mmuLimit (en : Bool) (b l : Word) : (s.setMmu en b l).mmuLimit = l := rfl
@[simp] theorem State.setMmu_pending (en : Bool) (b l : Word) : (s.setMmu en b l).pending = s.pending := rfl
@[simp] theorem State.setMmu_halted (en : Bool) (b l : Word) : (s.setMmu en b l).halted = s.halted := rfl
@[simp] theorem State.setMmu_mode (en : Bool) (b l : Word) : (s.setMmu en b l).mode = s.mode := rfl
@[simp] theorem State.setMmu_inp (en : Bool) (b l : Word) : (s.setMmu en b l).inp = s.inp := rfl
@[simp] theorem State.setMmu_out (en : Bool) (b l : Word) : (s.setMmu en b l).out = s.out := rfl
@[simp] theorem State.setMmu_usd (en : Bool) (b l : Word) : (s.setMmu en b l).usd = s.usd := rfl
@[simp] theorem State.setMmu_ioLog (en : Bool) (b l : Word) : (s.setMmu en b l).ioLog = s.ioLog := rfl
@[simp] theorem State.setMmu_tick (en : Bool) (b l : Word) : (s.setMmu en b l).tick = s.tick := rfl

@[simp] theorem State.logIo_regs (e : IoEvent) : (s.logIo e).regs = s.regs := rfl
@[simp] theorem State.logIo_pc (e : IoEvent) : (s.logIo e).pc = s.pc := rfl
@[simp] theorem State.logIo_flag (e : IoEvent) : (s.logIo e).flag = s.flag := rfl
@[simp] theorem State.logIo_mem (e : IoEvent) : (s.logIo e).mem = s.mem := rfl
@[simp] theorem State.logIo_mmuEn (e : IoEvent) : (s.logIo e).mmuEn = s.mmuEn := rfl
@[simp] theorem State.logIo_mmuBase (e : IoEvent) : (s.logIo e).mmuBase = s.mmuBase := rfl
@[simp] theorem State.logIo_mmuLimit (e : IoEvent) : (s.logIo e).mmuLimit = s.mmuLimit := rfl
@[simp] theorem State.logIo_pending (e : IoEvent) : (s.logIo e).pending = s.pending := rfl
@[simp] theorem State.logIo_halted (e : IoEvent) : (s.logIo e).halted = s.halted := rfl
@[simp] theorem State.logIo_mode (e : IoEvent) : (s.logIo e).mode = s.mode := rfl
@[simp] theorem State.logIo_inp (e : IoEvent) : (s.logIo e).inp = s.inp := rfl
@[simp] theorem State.logIo_out (e : IoEvent) : (s.logIo e).out = s.out := rfl
@[simp] theorem State.logIo_usd (e : IoEvent) : (s.logIo e).usd = s.usd := rfl
@[simp] theorem State.logIo_ioLog (e : IoEvent) : (s.logIo e).ioLog = e :: s.ioLog := rfl
@[simp] theorem State.logIo_tick (e : IoEvent) : (s.logIo e).tick = s.tick := rfl

@[simp] theorem State.ioSettle_regs : (s.ioSettle).regs = s.regs := rfl
@[simp] theorem State.ioSettle_pc : (s.ioSettle).pc = s.pc := rfl
@[simp] theorem State.ioSettle_flag : (s.ioSettle).flag = s.flag := rfl
@[simp] theorem State.ioSettle_mem : (s.ioSettle).mem = s.mem := rfl
@[simp] theorem State.ioSettle_mmuEn : (s.ioSettle).mmuEn = s.mmuEn := rfl
@[simp] theorem State.ioSettle_mmuBase : (s.ioSettle).mmuBase = s.mmuBase := rfl
@[simp] theorem State.ioSettle_mmuLimit : (s.ioSettle).mmuLimit = s.mmuLimit := rfl
@[simp] theorem State.ioSettle_pending : (s.ioSettle).pending = s.pending &&& Config.deviceKeeps s.tick := rfl
@[simp] theorem State.ioSettle_halted : (s.ioSettle).halted = s.halted := rfl
@[simp] theorem State.ioSettle_mode : (s.ioSettle).mode = s.mode := rfl
@[simp] theorem State.ioSettle_inp : (s.ioSettle).inp = s.inp := rfl
@[simp] theorem State.ioSettle_out : (s.ioSettle).out = s.out := rfl
@[simp] theorem State.ioSettle_usd : (s.ioSettle).usd = s.usd := rfl
@[simp] theorem State.ioSettle_ioLog : (s.ioSettle).ioLog = s.ioLog := rfl
@[simp] theorem State.ioSettle_tick : (s.ioSettle).tick = s.tick + 1 := rfl

end Updates

section Registers

/-- Read after write of a stored register. -/
theorem Regs.get_set (r : Regs) (p q : PReg) (v : Word) : (r.set p v).get q = if q = p then v else r.get q := by
  cases p <;> cases q <;> rfl

@[simp] theorem Regs.get_set_same (r : Regs) (p : PReg) (v : Word) : (r.set p v).get p = v := by
  simp [Regs.get_set]

theorem Regs.get_set_ne (r : Regs) {p q : PReg} (v : Word) (h : q ≠ p) : (r.set p v).get q = r.get q := by
  simp [Regs.get_set, h]

/-- The register an operand names is read through the P of its state. -/
theorem State.reg_eq (s : State) (r : Reg) : s.reg r = s.regs.get (bank s.flag.p r) := rfl

/-- The field `ssp` is the stored register SSP. -/
theorem Regs.get_ssp (r : Regs) : r.get .ssp = r.ssp := rfl

theorem Regs.set_ssp (r : Regs) (v : Word) : (r.set .ssp v).ssp = v := rfl

theorem Regs.set_ssp_ne (r : Regs) {p : PReg} (v : Word) (h : p ≠ .ssp) : (r.set p v).ssp = r.ssp := by
  cases p <;> first | rfl | exact absurd rfl h

end Registers

section FlagFields

variable (f : Flags) (c : Cond)

@[simp] theorem Flags.withCond_e : (f.withCond c).e = f.e := rfl
@[simp] theorem Flags.withCond_p : (f.withCond c).p = f.p := rfl
@[simp] theorem Flags.withCond_i : (f.withCond c).i = f.i := rfl
@[simp] theorem Flags.withCond_v : (f.withCond c).v = c.v := rfl
@[simp] theorem Flags.withCond_c : (f.withCond c).c = c.c := rfl
@[simp] theorem Flags.withCond_s : (f.withCond c).s = c.s := rfl
@[simp] theorem Flags.withCond_z : (f.withCond c).z = c.z := rfl
@[simp] theorem Flags.trapped_e : f.trapped.e = false := rfl
@[simp] theorem Flags.trapped_p : f.trapped.p = true := rfl
@[simp] theorem Flags.trapped_i : f.trapped.i = f.i := rfl
@[simp] theorem Flags.trapped_v : f.trapped.v = f.v := rfl
@[simp] theorem Flags.trapped_c : f.trapped.c = f.c := rfl
@[simp] theorem Flags.trapped_s : f.trapped.s = f.s := rfl
@[simp] theorem Flags.trapped_z : f.trapped.z = f.z := rfl

end FlagFields

end Sys2Proof.Machine
end

