-- ==== Sys2Proof/Laws/Memory.lean ====
section
/-! SUPPORT. Memory: read after write, the canonical form is kept, bytes and words. -/

namespace Sys2Proof.Machine

/-- Reading the address written gives the byte written. -/
theorem Memory.read_write_same (m : Memory) (a : Nat) (v : Byte) : (Memory.write m a v).read a = some v := by
  induction m with
  | nil => simp [Memory.write, Memory.read]
  | cons c rest ih =>
    obtain ⟨k, b⟩ := c
    simp only [Memory.write]
    split
    · simp [Memory.read]
    · split
      · simp [Memory.read]
      · next h2 => simpa [Memory.read, h2] using ih

/-- Every other address reads as before. -/
theorem Memory.read_write_ne (m : Memory) {a k : Nat} (v : Byte) (h : k ≠ a) :
    (Memory.write m a v).read k = Memory.read m k := by
  induction m with
  | nil => simp [Memory.write, Memory.read, h]
  | cons c rest ih =>
    obtain ⟨j, b⟩ := c
    simp only [Memory.write]
    split
    · simp [Memory.read, h]
    · split
      · next h2 => subst h2; simp [Memory.read, h]
      · simp only [Memory.read]; split <;> simp_all

/-- A write above `lo` keeps the addresses rising above `lo`. -/
theorem Memory.risesAbove_write (m : Memory) {lo a : Nat} (v : Byte) (hlo : lo < a) (ha : a < 65536)
    (h : Memory.risesAbove lo m = true) : Memory.risesAbove lo (Memory.write m a v) = true := by
  induction m generalizing lo with
  | nil => simp [Memory.write, Memory.risesAbove, hlo, ha]
  | cons c rest ih =>
    obtain ⟨k, b⟩ := c
    simp only [Memory.risesAbove, Bool.and_eq_true, decide_eq_true_eq] at h
    obtain ⟨⟨h1, h2⟩, h3⟩ := h
    simp only [Memory.write]
    split
    · next hk => simp [Memory.risesAbove, hlo, ha, hk, h2, h3]
    · split
      · next hk => subst hk; simp [Memory.risesAbove, hlo, ha, h3]
      · next hk1 hk2 =>
        have : k < a := by omega
        simp [Memory.risesAbove, h1, h2, ih this h3]

/-- A write keeps the canonical form. -/
theorem Memory.wf_write (m : Memory) {a : Nat} (v : Byte) (ha : a < 65536) (h : m.wf = true) :
    (Memory.write m a v).wf = true := by
  cases m with
  | nil => simp [Memory.write, Memory.wf, Memory.risesAbove, ha]
  | cons c rest =>
    obtain ⟨k, b⟩ := c
    simp only [Memory.wf, Bool.and_eq_true, decide_eq_true_eq] at h
    obtain ⟨h2, h3⟩ := h
    simp only [Memory.write]
    split
    · next hk => simp [Memory.wf, Memory.risesAbove, ha, hk, h2, h3]
    · split
      · next hk => subst hk; simp [Memory.wf, ha, h3]
      · next hk1 hk2 =>
        have : k < a := by omega
        simp [Memory.wf, h2, Memory.risesAbove_write rest v this ha h3]

/-- The empty memory is canonical. -/
theorem Memory.wf_nil : Memory.wf [] = true := rfl

/-- Read after write of a byte of the machine's memory. -/
theorem State.byteAt_setByte (s : State) (a b : Word) (v : Byte) :
    (s.setByte a v).byteAt b = if b = a then v else s.byteAt b := by
  simp only [State.byteAt, State.setByte_mem]
  split
  · next h => subst h; simp [Memory.read_write_same]
  · next h =>
    have : b.toNat ≠ a.toNat := fun hh => h (BitVec.eq_of_toNat_eq hh)
    rw [Memory.read_write_ne _ _ this]

@[simp] theorem State.byteAt_setByte_same (s : State) (a : Word) (v : Byte) : (s.setByte a v).byteAt a = v := by
  simp [State.byteAt_setByte]

/-- Memory is all that `byteAt` looks at. -/
theorem State.byteAt_congr {s t : State} (h : t.mem = s.mem) (a : Word) : t.byteAt a = s.byteAt a := by
  simp [State.byteAt, h]

/-- Memory is all that `wordAt` looks at. -/
theorem State.wordAt_congr {s t : State} (h : t.mem = s.mem) (a : Word) : t.wordAt a = s.wordAt a := by
  simp [State.wordAt, State.byteAt, h]

/-- An address is not its successor. -/
theorem word_ne_succ (a : Word) : a ≠ a + 1#16 := by simp

/-- The bytes of a word joined again. -/
@[simp] theorem joinBytes_hi_lo (w : Word) : joinBytes (hiByte w) (loByte w) = w := by
  apply BitVec.eq_of_getLsbD_eq
  intro i hi
  change BitVec.getLsbD (BitVec.extractLsb' 8 8 w ++ BitVec.extractLsb' 0 8 w) i = _
  rw [BitVec.getLsbD_append]
  split
  · next h => simp [h]
  · next h =>
    have h1 : i - 8 < 8 := by omega
    have h2 : 8 + (i - 8) = i := by omega
    simp [h1, h2]

@[simp] theorem hiByte_joinBytes (h l : Byte) : hiByte (joinBytes h l) = h := by
  apply BitVec.eq_of_getLsbD_eq
  intro i hi
  change BitVec.getLsbD (BitVec.extractLsb' 8 8 (h ++ l)) i = _
  rw [BitVec.getLsbD_extractLsb', BitVec.getLsbD_append]
  simp [hi]

@[simp] theorem loByte_joinBytes (h l : Byte) : loByte (joinBytes h l) = l := by
  apply BitVec.eq_of_getLsbD_eq
  intro i hi
  change BitVec.getLsbD (BitVec.extractLsb' 0 8 (h ++ l)) i = _
  rw [BitVec.getLsbD_extractLsb', BitVec.getLsbD_append]
  simp [hi]

/-- Read after write of a word. -/
@[simp] theorem State.wordAt_setWord_same (s : State) (a v : Word) : (s.setWord a v).wordAt a = v := by
  simp [State.wordAt, State.setWord, State.byteAt_setByte]

/-- Read of a byte after the write of a word. -/
theorem State.byteAt_setWord (s : State) (a v b : Word) :
    (s.setWord a v).byteAt b = if b = a + 1#16 then loByte v else if b = a then hiByte v else s.byteAt b := by
  simp only [State.setWord, State.byteAt_setByte]

/-- Read of a word that a write of a word does not touch. -/
theorem State.wordAt_setWord_ne (s : State) {a b : Word} (v : Word) (h1 : b ≠ a) (h2 : b ≠ a + 1#16) (h3 : b + 1#16 ≠ a)
    (h4 : b + 1#16 ≠ a + 1#16) : (s.setWord a v).wordAt b = s.wordAt b := by
  simp only [State.wordAt, State.byteAt_setWord, if_neg h1, if_neg h2, if_neg h3, if_neg h4]

/-- The canonical form after the write of a byte and of a word. -/
theorem State.wf_setByte {s : State} (h : s.mem.wf = true) (a : Word) (v : Byte) : (s.setByte a v).mem.wf = true :=
  Memory.wf_write _ _ (by have := a.isLt; omega) h

theorem State.wf_setWord {s : State} (h : s.mem.wf = true) (a v : Word) : (s.setWord a v).mem.wf = true :=
  State.wf_setByte (State.wf_setByte h _ _) _ _

/-- The updates that leave memory alone leave what is read from it alone. -/
@[simp] theorem State.byteAt_setPReg (s : State) (p : PReg) (v : Word) (k : Word) :
    (s.setPReg p v).byteAt k = s.byteAt k := rfl
@[simp] theorem State.byteAt_setReg (s : State) (r : Reg) (v : Word) (k : Word) :
    (s.setReg r v).byteAt k = s.byteAt k := rfl
@[simp] theorem State.byteAt_setPc (s : State) (v : Word) (k : Word) :
    (s.setPc v).byteAt k = s.byteAt k := rfl
@[simp] theorem State.byteAt_advance (s : State) (n : Word) (k : Word) :
    (s.advance n).byteAt k = s.byteAt k := rfl
@[simp] theorem State.byteAt_setFlags (s : State) (f : Flags) (k : Word) :
    (s.setFlags f).byteAt k = s.byteAt k := rfl
@[simp] theorem State.byteAt_setCond (s : State) (c : Cond) (k : Word) :
    (s.setCond c).byteAt k = s.byteAt k := rfl
@[simp] theorem State.byteAt_nextDraw (s : State) (k : Word) :
    (s.nextDraw).byteAt k = s.byteAt k := rfl
@[simp] theorem State.byteAt_setPending (s : State) (b : BitVec 10) (k : Word) :
    (s.setPending b).byteAt k = s.byteAt k := rfl

@[simp] theorem State.wordAt_setPReg (s : State) (p : PReg) (v : Word) (k : Word) :
    (s.setPReg p v).wordAt k = s.wordAt k := rfl
@[simp] theorem State.wordAt_setReg (s : State) (r : Reg) (v : Word) (k : Word) :
    (s.setReg r v).wordAt k = s.wordAt k := rfl
@[simp] theorem State.wordAt_setPc (s : State) (v : Word) (k : Word) :
    (s.setPc v).wordAt k = s.wordAt k := rfl
@[simp] theorem State.wordAt_advance (s : State) (n : Word) (k : Word) :
    (s.advance n).wordAt k = s.wordAt k := rfl
@[simp] theorem State.wordAt_setFlags (s : State) (f : Flags) (k : Word) :
    (s.setFlags f).wordAt k = s.wordAt k := rfl
@[simp] theorem State.wordAt_setCond (s : State) (c : Cond) (k : Word) :
    (s.setCond c).wordAt k = s.wordAt k := rfl
@[simp] theorem State.wordAt_nextDraw (s : State) (k : Word) :
    (s.nextDraw).wordAt k = s.wordAt k := rfl
@[simp] theorem State.wordAt_setPending (s : State) (b : BitVec 10) (k : Word) :
    (s.setPending b).wordAt k = s.wordAt k := rfl

end Sys2Proof.Machine
end

