-- ==== Sys2Proof/Laws/Decode.lean ====
section
/-! SUPPORT. The fields of the first word, register numbers, and what each operand decoder can answer. -/

namespace Sys2Proof

open Sys2Proof.Machine

/-- The bits of a first word, field by field. -/
theorem Fields.getLsbD_word (f : Fields) (i : Nat) :
    f.word.getLsbD i =
      if i < 4 then f.rx.getLsbD i
      else if i < 8 then f.rd.getLsbD (i - 4)
      else if i < 11 then f.mode.getLsbD (i - 8)
      else f.op5.getLsbD (i - 11) := by
  change BitVec.getLsbD (((f.op5 ++ f.mode) ++ f.rd) ++ f.rx) i = _
  rw [BitVec.getLsbD_append, BitVec.getLsbD_append, BitVec.getLsbD_append]
  split
  · rfl
  · next h1 =>
    by_cases h2 : i < 8
    · rw [if_pos h2, if_pos (by omega)]
    · rw [if_neg h2, if_neg (by omega)]
      by_cases h3 : i < 11
      · rw [if_pos h3, if_pos (by omega), Nat.sub_sub]
      · rw [if_neg h3, if_neg (by omega), Nat.sub_sub, Nat.sub_sub]

/-- The fields of the word with given fields. -/
@[simp] theorem Fields.ofWord_word (f : Fields) : Fields.ofWord f.word = f := by
  have h : ∀ i, f.word.getLsbD i = _ := f.getLsbD_word
  obtain ⟨op5, mode, rd, rx⟩ := f
  simp only [Fields.ofWord, Fields.mk.injEq]
  refine ⟨?_, ?_, ?_, ?_⟩ <;> apply BitVec.eq_of_getLsbD_eq <;> intro i hi <;>
    rw [BitVec.getLsbD_extractLsb', h]
  · rw [if_neg (by omega), if_neg (by omega), if_neg (by omega)]; simp [hi]
  · rw [if_neg (by omega), if_neg (by omega), if_pos (by omega)]; simp [hi]
  · rw [if_neg (by omega), if_pos (by omega)]; simp [hi]
  · rw [if_pos (by omega)]; simp [hi]

/-- The word with the fields of a word. -/
@[simp] theorem Fields.word_ofWord (w : Word) : (Fields.ofWord w).word = w := by
  apply BitVec.eq_of_getLsbD_eq
  intro i hi
  rw [Fields.getLsbD_word]
  simp only [Fields.ofWord, BitVec.getLsbD_extractLsb']
  split
  · next h => simp [h]
  · split
    · next h1 h2 =>
      have e1 : i - 4 < 4 := by omega
      have e2 : 4 + (i - 4) = i := by omega
      simp [e1, e2]
    · split
      · next h1 h2 h3 =>
        have e1 : i - 8 < 3 := by omega
        have e2 : 8 + (i - 8) = i := by omega
        simp [e1, e2]
      · next h1 h2 h3 =>
        have e1 : i - 11 < 5 := by omega
        have e2 : 11 + (i - 11) = i := by omega
        simp [e1, e2]

/-- The upper byte of the first word is the opcode: `op5 * 8` plus the mode. -/
theorem hiByte_eq_fields (w : Word) : hiByte w = (Fields.ofWord w).op5 ++ (Fields.ofWord w).mode := by
  apply BitVec.eq_of_getLsbD_eq
  intro i hi
  change BitVec.getLsbD (BitVec.extractLsb' 8 8 w) i =
    BitVec.getLsbD (BitVec.extractLsb' 11 5 w ++ BitVec.extractLsb' 8 3 w) i
  rw [BitVec.getLsbD_append]
  simp only [BitVec.getLsbD_extractLsb']
  split
  · next h => simp [hi, h]
  · next h =>
    have e1 : i - 3 < 5 := by omega
    have e2 : 11 + (i - 3) = 8 + i := by omega
    simp [hi, e1, e2]

/-- A register's number names it. -/
@[simp] theorem Reg.ofBits_bits (r : Reg) : Reg.ofBits r.bits = some r := by cases r <;> rfl

/-- The number that names a register is its number. -/
theorem Reg.bits_of_ofBits {b : BitVec 4} {r : Reg} (h : Reg.ofBits b = some r) : r.bits = b := by
  revert h; revert b r; decide

@[simp] theorem decodeReg_bits (r : Reg) : decodeReg r.bits = .ok r := by simp [decodeReg]

/-- A register field that decodes is the register's number. -/
theorem decodeReg_inv {b : BitVec 4} {r : Reg} (h : decodeReg b = .ok r) : b = r.bits := by
  simp only [decodeReg] at h
  split at h
  · next q hq => cases h; exact (Reg.bits_of_ofBits hq).symm
  · cases h

/-- A register field that does not decode is Fh. -/
theorem decodeReg_error {b : BitVec 4} {e : DecodeErr} (h : decodeReg b = .error e) : e = .pcOperand := by
  simp only [decodeReg] at h
  split at h
  · cases h
  · cases h; rfl

@[simp] theorem decodeZero_zero {α : Type} (a : α) : decodeZero 0#4 a = .ok a := by simp [decodeZero]

/-- A field drawn 0h that decodes is zero. -/
theorem decodeZero_inv {α : Type} {b : BitVec 4} {a c : α} (h : decodeZero b a = .ok c) : b = 0#4 ∧ c = a := by
  simp only [decodeZero] at h
  split at h
  · next hb => cases h; exact ⟨hb, rfl⟩
  · cases h

/-- An encoded operand decodes to the operand. -/
@[simp] theorem decodeSrc_encodeSrc (src : Src) :
    decodeSrc (encodeSrc src).1 (encodeSrc src).2.1 ((encodeSrc src).2.2.getD 0#16) = .ok src := by
  rcases src with (_ | _ | _ | _ | _) | _ | _ | _ <;> simp [encodeSrc, encodeLoc, decodeSrc, Except.map]

@[simp] theorem decodeLoc_encodeLoc (l : Loc) :
    decodeLoc (encodeLoc l).1 (encodeLoc l).2.1 ((encodeLoc l).2.2.getD 0#16) = .ok l := by
  rcases l with _ | _ | _ | _ | _ <;> simp [encodeLoc, decodeLoc, Except.map]

@[simp] theorem decodeTarget_encodeTarget (t : Target) :
    decodeTarget (encodeTarget t).1 (encodeTarget t).2.1 ((encodeTarget t).2.2.getD 0#16) = .ok t := by
  rcases t with _ | _ | _ <;> simp [encodeTarget, decodeTarget, Except.map]

@[simp] theorem decodePort_encodePort (p : Port) :
    decodePort (encodePort p).1 (encodePort p).2.1 ((encodePort p).2.2.getD 0#16) = .ok p := by
  rcases p with _ | _ | _ <;> simp [encodePort, decodePort, Except.map]

/-- A register that decodes, under a constructor. -/
theorem decodeReg_map_inv {α : Type} {b : BitVec 4} {f : Reg → α} {c : α} (h : (decodeReg b).map f = .ok c) :
    ∃ r, b = r.bits ∧ c = f r := by
  cases hr : decodeReg b with
  | error e => rw [hr] at h; cases h
  | ok r => rw [hr] at h; cases h; exact ⟨r, decodeReg_inv hr, rfl⟩

/-- The eight modes. -/
theorem mode_cases (m : BitVec 3) :
    m = 0#3 ∨ m = 1#3 ∨ m = 2#3 ∨ m = 3#3 ∨ m = 4#3 ∨ m = 5#3 ∨ m = 6#3 ∨ m = 7#3 := by revert m; decide

/-- A source operand that decodes encodes to its fields; the second word counts in modes 0 to 2. -/
theorem decodeSrc_inv {m : BitVec 3} {rx : BitVec 4} {w : Word} {src : Src} (h : decodeSrc m rx w = .ok src) :
    encodeSrc src = (m, rx, if m.toNat ≤ 2 then some w else none) := by
  rcases mode_cases m with rfl | rfl | rfl | rfl | rfl | rfl | rfl | rfl
  · obtain ⟨rfl, rfl⟩ := decodeZero_inv h; rfl
  · obtain ⟨r, rfl, rfl⟩ := decodeReg_map_inv h; rfl
  · obtain ⟨rfl, rfl⟩ := decodeZero_inv h; rfl
  · cases h; rfl
  · obtain ⟨r, rfl, rfl⟩ := decodeReg_map_inv h; rfl
  · cases h; rfl
  · obtain ⟨r, rfl, rfl⟩ := decodeReg_map_inv h; rfl
  · obtain ⟨r, rfl, rfl⟩ := decodeReg_map_inv h; rfl

/-- A location that decodes encodes to its fields. -/
theorem decodeLoc_inv {m : BitVec 3} {rx : BitVec 4} {w : Word} {l : Loc} (h : decodeLoc m rx w = .ok l) :
    encodeLoc l = (m, rx, if m.toNat ≤ 2 then some w else none) := by
  rcases mode_cases m with rfl | rfl | rfl | rfl | rfl | rfl | rfl | rfl
  · obtain ⟨rfl, rfl⟩ := decodeZero_inv h; rfl
  · obtain ⟨r, rfl, rfl⟩ := decodeReg_map_inv h; rfl
  · cases h
  · cases h; rfl
  · cases h
  · cases h
  · obtain ⟨r, rfl, rfl⟩ := decodeReg_map_inv h; rfl
  · obtain ⟨r, rfl, rfl⟩ := decodeReg_map_inv h; rfl

/-- A jump target that decodes encodes to its fields. -/
theorem decodeTarget_inv {m : BitVec 3} {rx : BitVec 4} {w : Word} {t : Target} (h : decodeTarget m rx w = .ok t) :
    encodeTarget t = (m, rx, if m.toNat ≤ 2 then some w else none) := by
  rcases mode_cases m with rfl | rfl | rfl | rfl | rfl | rfl | rfl | rfl
  · obtain ⟨rfl, rfl⟩ := decodeZero_inv h; rfl
  · obtain ⟨r, rfl, rfl⟩ := decodeReg_map_inv h; rfl
  · cases h
  · cases h
  · cases h
  · cases h
  · obtain ⟨r, rfl, rfl⟩ := decodeReg_map_inv h; rfl
  · cases h

/-- A port that decodes encodes to its fields. -/
theorem decodePort_inv {m : BitVec 3} {rx : BitVec 4} {w : Word} {p : Port} (h : decodePort m rx w = .ok p) :
    encodePort p = (m, rx, if m.toNat ≤ 2 then some w else none) := by
  rcases mode_cases m with rfl | rfl | rfl | rfl | rfl | rfl | rfl | rfl
  · obtain ⟨rfl, rfl⟩ := decodeZero_inv h; rfl
  · cases h
  · cases h
  · cases h
  · cases h
  · cases h
  · obtain ⟨r, rfl, rfl⟩ := decodeReg_map_inv h; rfl
  · obtain ⟨r, rfl, rfl⟩ := decodeReg_map_inv h; rfl

/-- A field drawn 0h that does not decode. -/
theorem decodeZero_error {α : Type} {b : BitVec 4} {a : α} {e : DecodeErr} (h : decodeZero b a = .error e) :
    b ≠ 0#4 ∧ e = .mustBeZero := by
  simp only [decodeZero] at h
  split at h
  · cases h
  · next hb => cases h; exact ⟨hb, rfl⟩

/-- A field drawn 0h fails whatever it stands beside. -/
theorem decodeZero_error_any {α β : Type} {b : BitVec 4} {a : α} {e : DecodeErr} (h : decodeZero b a = .error e)
    (c : β) : decodeZero b c = .error e := by
  obtain ⟨hb, rfl⟩ := decodeZero_error h
  simp [decodeZero, hb]

/-- A register that does not decode fails under every constructor. -/
theorem decodeReg_map_error {α β : Type} {b : BitVec 4} {f : Reg → α} {e : DecodeErr}
    (h : (decodeReg b).map f = .error e) (g : Reg → β) : (decodeReg b).map g = .error e := by
  cases hr : decodeReg b with
  | error x => rw [hr] at h; cases h; rfl
  | ok r => rw [hr] at h; cases h

/-- An operand, location, target or port fails by the fields of the first word alone. -/
theorem decodeSrc_error {m : BitVec 3} {rx : BitVec 4} {w : Word} {e : DecodeErr} (h : decodeSrc m rx w = .error e)
    (w' : Word) : decodeSrc m rx w' = .error e := by
  rcases mode_cases m with rfl | rfl | rfl | rfl | rfl | rfl | rfl | rfl <;>
    first | exact decodeZero_error_any h _ | exact decodeReg_map_error h _ | exact h

theorem decodeLoc_error {m : BitVec 3} {rx : BitVec 4} {w : Word} {e : DecodeErr} (h : decodeLoc m rx w = .error e)
    (w' : Word) : decodeLoc m rx w' = .error e := by
  rcases mode_cases m with rfl | rfl | rfl | rfl | rfl | rfl | rfl | rfl <;>
    first | exact decodeZero_error_any h _ | exact decodeReg_map_error h _ | exact h

theorem decodeTarget_error {m : BitVec 3} {rx : BitVec 4} {w : Word} {e : DecodeErr}
    (h : decodeTarget m rx w = .error e) (w' : Word) : decodeTarget m rx w' = .error e := by
  rcases mode_cases m with rfl | rfl | rfl | rfl | rfl | rfl | rfl | rfl <;>
    first | exact decodeZero_error_any h _ | exact decodeReg_map_error h _ | exact h

theorem decodePort_error {m : BitVec 3} {rx : BitVec 4} {w : Word} {e : DecodeErr} (h : decodePort m rx w = .error e)
    (w' : Word) : decodePort m rx w' = .error e := by
  rcases mode_cases m with rfl | rfl | rfl | rfl | rfl | rfl | rfl | rfl <;>
    first | exact decodeZero_error_any h _ | exact decodeReg_map_error h _ | exact h

/-- `OP Rd EA` fails by the first word alone, where its operand does. -/
theorem decodeRdSrc_error {mk : Reg → Src → Instr} {f : Fields} {w : Word} {e : DecodeErr}
    (h : decodeRdSrc mk f w = .error e) (w' : Word) : decodeRdSrc mk f w' = .error e := by
  simp only [decodeRdSrc] at h ⊢
  cases hr : decodeReg f.rd with
  | error x => simpa [hr] using h
  | ok rd =>
    cases hs : decodeSrc f.mode f.rx w with
    | error x => rw [decodeSrc_error hs w']; simpa [hr, hs] using h
    | ok s => simp [hr, hs] at h

theorem decodePairSrc_error {mk : Reg → Src → Instr} {f : Fields} {w : Word} {e : DecodeErr}
    (h : decodePairSrc mk f w = .error e) (w' : Word) : decodePairSrc mk f w' = .error e := by
  simp only [decodePairSrc] at h ⊢
  cases hr : decodeReg f.rd with
  | error x => simpa [hr] using h
  | ok rd =>
    cases hs : decodeSrc f.mode f.rx w with
    | error x => rw [decodeSrc_error hs w']; simpa [hr, hs] using h
    | ok s =>
      cases hs' : decodeSrc f.mode f.rx w' with
      | error x => rw [decodeSrc_error hs' w] at hs; cases hs
      | ok s' =>
        simp only [hr, hs] at h ⊢
        split at h
        · cases h
        · next hp => cases h; simp [hp]

theorem decodeRdLoc_error {mk : Reg → Loc → Instr} {f : Fields} {w : Word} {e : DecodeErr}
    (h : decodeRdLoc mk f w = .error e) (w' : Word) : decodeRdLoc mk f w' = .error e := by
  simp only [decodeRdLoc] at h ⊢
  cases hr : decodeReg f.rd with
  | error x => simpa [hr] using h
  | ok rd =>
    cases hs : decodeLoc f.mode f.rx w with
    | error x => rw [decodeLoc_error hs w']; simpa [hr, hs] using h
    | ok s => simp [hr, hs] at h

theorem decodeRdPort_error {mk : Reg → Port → Instr} {f : Fields} {w : Word} {e : DecodeErr}
    (h : decodeRdPort mk f w = .error e) (w' : Word) : decodeRdPort mk f w' = .error e := by
  simp only [decodeRdPort] at h ⊢
  cases hr : decodeReg f.rd with
  | error x => simpa [hr] using h
  | ok rd =>
    cases hs : decodePort f.mode f.rx w with
    | error x => rw [decodePort_error hs w']; simpa [hr, hs] using h
    | ok s => simp [hr, hs] at h

/-- A jump or CALL fails by the first word alone. -/
theorem decodeTarget_bind_error {f : Fields} {w : Word} {e : DecodeErr} {k : Target → Except DecodeErr Instr}
    (hk : ∀ t t' e, k t = .error e → k t' = .error e) (h : (decodeTarget f.mode f.rx w).bind k = .error e)
    (w' : Word) : (decodeTarget f.mode f.rx w').bind k = .error e := by
  cases hs : decodeTarget f.mode f.rx w with
  | error x => rw [decodeTarget_error hs w']; simpa [hs, Except.bind] using h
  | ok t =>
    cases hs' : decodeTarget f.mode f.rx w' with
    | error x => rw [decodeTarget_error hs' w] at hs; cases hs
    | ok t' => rw [hs] at h; exact hk t t' e h

theorem decodeJump_error {f : Fields} (t t' : Target) (e : DecodeErr) (h : decodeJump f t = .error e) :
    decodeJump f t' = .error e := by
  simp only [decodeJump] at h ⊢
  split at h <;> cases h
  rfl

/-- A word that is no instruction is none by its first word alone: no second word changes the reason. -/
theorem decode_error_second {w1 w2 : Word} {e : DecodeErr} (h : decode w1 w2 = .error e) (w : Word) :
    decode w1 w = .error e := by
  simp only [decode, decodeFields] at h ⊢
  split at h
  · next hd =>
    rw [if_pos hd]
    split at h
    all_goals first
      | exact decodeRdSrc_error h w
      | exact decodePairSrc_error h w
      | exact decodeRdPort_error h w
      | exact decodeTarget_bind_error decodeJump_error h w
      | exact decodeTarget_bind_error (fun _ _ _ h => decodeZero_error_any h _) h w
      | exact h
      | (split at h
         · next hm => rw [if_pos hm]; exact h
         · next hm => rw [if_neg hm]; exact decodeRdLoc_error h w)
  · next hd => rw [if_neg hd]; exact h

end Sys2Proof
end

