-- ==== Sys2Proof/Laws/Flags.lean ====
section
/-! SUPPORT. FLAG as a word and back, the flag computations in numbers, and the joined words in numbers. -/

namespace Sys2Proof.Machine

/-- FLAG that is read as a word and loaded again is the same. -/
@[simp] theorem Flags.ofWord_toWord (f : Flags) : Flags.ofWord f.toWord = f := by
  obtain ⟨e, p, i, v, c, s, z⟩ := f
  cases e <;> cases p <;> cases i <;> cases v <;> cases c <;> cases s <;> cases z <;> rfl

/-- The bits of FLAG as a word (10_state R29). -/
theorem Flags.getLsbD_toWord (f : Flags) (k : Nat) :
    f.toWord.getLsbD k =
      if k = 7 then f.e else if k = 6 then f.p else if k = 5 then f.i else if k = 3 then f.v
      else if k = 2 then f.c else if k = 1 then f.s else if k = 0 then f.z else false := by
  by_cases hk : k < 16
  · obtain ⟨e, p, i, v, c, s, z⟩ := f
    revert e p i v c s z
    interval_cases k <;> decide
  · rw [BitVec.getLsbD_of_ge _ _ (Nat.le_of_not_lt hk)]
    repeat rw [if_neg (by omega)]

/-- S of a result is its sign. -/
theorem resultCond_s (r : Word) (v c : Bool) : (resultCond r v c).s = true ↔ r.toInt < 0 := by
  simp only [resultCond, BitVec.msb_eq_decide, BitVec.toInt_eq_toNat_cond, decide_eq_true_eq]
  have := r.isLt
  split <;> omega

/-- Z of a result says that it is zero. -/
theorem resultCond_z (r : Word) (v c : Bool) : (resultCond r v c).z = true ↔ r = 0#16 := by simp [resultCond]

/-- The big-endian word of two bytes, as a number. -/
theorem toNat_joinBytes (h l : Byte) : (joinBytes h l).toNat = 256 * h.toNat + l.toNat := by
  change (HAppend.hAppend (γ := BitVec (8 + 8)) h l).toNat = _
  rw [BitVec.toNat_append, Nat.shiftLeft_eq, Nat.mul_comm, ← Nat.two_pow_add_eq_or_of_lt l.isLt]

/-- A pair of words, upper first, as a number. -/
theorem toNat_wordPair (h l : Word) : (h ++ l : BitVec 32).toNat = 65536 * h.toNat + l.toNat := by
  rw [BitVec.toNat_append, Nat.shiftLeft_eq, Nat.mul_comm, ← Nat.two_pow_add_eq_or_of_lt l.isLt]

end Sys2Proof.Machine
end

