-- ==== Sys2Proof/Laws/Ops.lean ====
section
/-! SUPPORT. For each shared operation, what it can do: the lemmas that proofs cite instead of unfolding it. -/

namespace Sys2Proof.Machine

/-! ## Addresses -/

/-- An odd address, as a number. -/
theorem isOdd_eq (a : Word) : isOdd a = decide (a.toNat % 2 = 1) := by
  simp [isOdd, BitVec.getLsbD, Nat.testBit_zero]

/-- Moving by an even distance keeps an address even. -/
theorem isOdd_sub_two (a : Word) : isOdd (a - 2#16) = isOdd a := by
  simp only [isOdd_eq]; congr 1; apply propext; have := a.isLt; bv_omega

theorem isOdd_sub_four (a : Word) : isOdd (a - 4#16) = isOdd a := by
  simp only [isOdd_eq]; congr 1; apply propext; have := a.isLt; bv_omega

/-- The even address of a word, as a number. -/
theorem wordBase_toNat (a : Word) : (wordBase a).toNat = a.toNat / 2 * 2 := by
  have h : wordBase a = (a >>> 1) <<< 1 := by
    apply BitVec.eq_of_getLsbD_eq
    intro i hi
    have hm : ∀ i, i < 16 → (0xFFFE#16).getLsbD i = decide (1 ≤ i) := by decide
    simp only [wordBase, BitVec.getLsbD_and, BitVec.getLsbD_shiftLeft, BitVec.getLsbD_ushiftRight, hm i hi]
    by_cases h1 : 1 ≤ i
    · simp [hi, h1, show 1 + (i - 1) = i by omega]; intros; omega
    · simp [show i = 0 by omega]
  have := a.isLt
  rw [h]
  simp [BitVec.toNat_shiftLeft, BitVec.toNat_ushiftRight, Nat.shiftLeft_eq, Nat.shiftRight_eq_div_pow]
  omega

/-- The two bytes of a word have one even address. -/
theorem wordBase_succ {a : Word} (he : isOdd a = false) : wordBase (a + 1#16) = wordBase a := by
  simp only [isOdd_eq, decide_eq_false_iff_not] at he
  apply BitVec.eq_of_toNat_eq
  rw [wordBase_toNat, wordBase_toNat]
  have := a.isLt
  have h1 : (a + 1#16).toNat = a.toNat + 1 := by rw [BitVec.toNat_add]; simp; omega
  omega

/-- An odd address is the second byte of the word before it. -/
theorem wordBase_odd {a : Word} (ho : isOdd a = true) : wordBase a = a - 1#16 ∧ wordBase (a + 1#16) = a + 1#16 := by
  simp only [isOdd_eq, decide_eq_true_eq] at ho
  constructor <;> apply BitVec.eq_of_toNat_eq <;> rw [wordBase_toNat] <;> bv_omega

/-- RAM can be written. -/
theorem writable_ram {a : Word} (h : a.toNat < 0xF000) : writable a = true := by simp [writable, h]

/-- `writable` is asked once for each word, so a word at an even address is writable as a whole. -/
theorem writable_succ {a : Word} (he : isOdd a = false) (hw : writable a = true) : writable (a + 1#16) = true := by
  simp only [writable, Bool.or_eq_true, decide_eq_true_eq] at hw ⊢
  rw [wordBase_succ he]
  rcases hw with h | h
  · refine .inl ?_
    simp only [isOdd_eq, decide_eq_false_iff_not] at he
    bv_omega
  · exact .inr h

/-! ## Accesses -/

/-- With the MMU off the access is to the address itself, and only a 16-bit access to an odd address fails. -/
theorem State.check_mmuOff {s : State} (h : s.mmuEn = false) (kind : AccessKind) (byte : Bool) (a : Word) :
    s.check kind byte a = if (!byte && isOdd a) = true then .error .invalidAddress else .ok a := by
  simp [State.check, State.translate, h]

/-- A word is loaded from the address that the check gives. -/
theorem State.loadWord_of_check {s : State} {kind : AccessKind} {a p : Word} (h : s.check kind false a = .ok p) :
    s.loadWord kind a = .ok (s.wordAt p) := by simp [State.loadWord, h, Except.map]

/-- A word is loaded, with the MMU off, from an even address. -/
theorem State.loadWord_mmuOff {s : State} (h : s.mmuEn = false) (kind : AccessKind) {a : Word}
    (he : isOdd a = false) : s.loadWord kind a = .ok (s.wordAt a) :=
  State.loadWord_of_check (by simp [State.check_mmuOff h, he])

/-- A load of a word looks at memory, the MMU, P and the free values alone. -/
theorem State.loadWord_congr {s t : State} (hm : t.mem = s.mem) (h0 : t.mmuEn = s.mmuEn) (h1 : t.mmuBase = s.mmuBase)
    (h2 : t.mmuLimit = s.mmuLimit) (h3 : t.flag.p = s.flag.p) (h4 : t.tick = s.tick) (kind : AccessKind) (a : Word) :
    t.loadWord kind a = s.loadWord kind a := by
  have hw : t.wordAt = s.wordAt := funext fun b => State.wordAt_congr hm b
  have ht : t.translate kind a = s.translate kind a := by simp only [State.translate]; rw [h0, h1, h2, h3]
  simp only [State.loadWord, State.check]
  rw [ht, h4, hw]

/-- What a store of a word comes to where the check passes and memory can be written. -/
theorem State.storeWord_done {s : State} {kind : AccessKind} {a p : Word} (v : Word)
    (h : s.check kind false a = .ok p) (hw : writable p = true) (hw' : writable (p + 1#16) = true) :
    s.storeWord kind a v = .done (s.setWord p v) := by simp [State.storeWord, h, hw, hw']

/-- Everything a store of a word that succeeds can do. -/
theorem State.storeWord_inv {s t : State} {kind : AccessKind} {a v : Word} (h : s.storeWord kind a v = .done t) :
    ∃ p, s.check kind false a = .ok p ∧ writable p = true ∧ writable (p + 1#16) = true ∧ t = s.setWord p v := by
  simp only [State.storeWord] at h
  split at h
  · next p hp =>
    split at h
    · next hw =>
      simp only [Bool.and_eq_true] at hw
      exact ⟨p, hp, hw.1, hw.2, by simpa using h.symm⟩
    · cases h
  · cases h

/-- Everything a store of a byte that succeeds can do. -/
theorem State.storeByte_inv {s t : State} {kind : AccessKind} {a : Word} {v : Byte}
    (h : s.storeByte kind a v = .done t) :
    ∃ p, s.check kind true a = .ok p ∧ writable p = true ∧ t = s.setByte p v := by
  simp only [State.storeByte] at h
  split at h
  · next p hp =>
    split at h
    · next hw => exact ⟨p, hp, hw, by simpa using h.symm⟩
    · cases h
  · cases h

/-- Everything a store that succeeds can do. -/
theorem State.store_inv {s t : State} {byte : Bool} {a v : Word} (h : s.store byte a v = .done t) :
    ∃ p, s.check .write byte a = .ok p ∧ writable p = true ∧
      (byte = true ∧ t = s.setByte p (loByte v) ∨
        byte = false ∧ writable (p + 1#16) = true ∧ t = s.setWord p v) := by
  cases byte with
  | true =>
    obtain ⟨p, hp, hw, ht⟩ := State.storeByte_inv h
    exact ⟨p, hp, hw, .inl ⟨rfl, ht⟩⟩
  | false =>
    obtain ⟨p, hp, hw, hw', ht⟩ := State.storeWord_inv h
    exact ⟨p, hp, hw, .inr ⟨rfl, hw', ht⟩⟩

/-- A push where the check passes and memory can be written. -/
theorem State.pushWord_done {s : State} {p : Word} (v : Word) (h : s.check .write false (s.reg .sp - 2#16) = .ok p)
    (hw : writable p = true) (hw' : writable (p + 1#16) = true) :
    s.pushWord v = .done ((s.setWord p v).setReg .sp (s.reg .sp - 2#16)) := by
  simp only [State.pushWord, State.store, State.storeWord_done v h hw hw', Bool.false_eq_true, if_false]

/-- Everything a push that succeeds can do. -/
theorem State.pushWord_inv {s t : State} {v : Word} (h : s.pushWord v = .done t) :
    ∃ p, s.check .write false (s.reg .sp - 2#16) = .ok p ∧ writable p = true ∧ writable (p + 1#16) = true ∧
      t = (s.setWord p v).setReg .sp (s.reg .sp - 2#16) := by
  simp only [State.pushWord] at h
  split at h
  · next u hu =>
    obtain ⟨p, hp, hw, h3 | h3⟩ := State.store_inv hu
    · exact absurd h3.1 (by simp)
    · exact ⟨p, hp, hw, h3.2.1, by rw [← h3.2.2]; simpa using h.symm⟩
  · cases h
  · cases h

/-! ## Trap entry -/

/-- Everything one push of trap entry that succeeds can do. -/
theorem State.trapPush_inv {s t : State} {v : Word} (h : s.trapPush v = .done t) :
    ∃ p, writable p = true ∧ writable (p + 1#16) = true ∧ t = (s.setWord p v).setPReg .ssp (s.regs.ssp - 2#16) := by
  simp only [State.trapPush] at h
  split at h
  · next u hu =>
    obtain ⟨p, -, hw, hw', rfl⟩ := State.storeWord_inv hu
    exact ⟨p, hw, hw', by simpa using h.symm⟩
  · cases h
  · cases h

/-- One push of trap entry where the check passes and memory can be written. -/
theorem State.trapPush_done {s : State} {p : Word} (v : Word) (h : s.check .trapPush false (s.regs.ssp - 2#16) = .ok p)
    (hw : writable p = true) (hw' : writable (p + 1#16) = true) :
    s.trapPush v = .done ((s.setWord p v).setPReg .ssp (s.regs.ssp - 2#16)) := by
  simp only [State.trapPush, State.storeWord_done v h hw hw']

/-- Everything the last part of trap entry can do. -/
theorem State.trapJump_inv {s t : State} {n : BitVec 4} (h : s.trapJump n = .next t) :
    ∃ a, s.loadWord .vectorFetch (vectorAddr n) = .ok a ∧ isOdd a = false ∧ t = s.setPc a := by
  simp only [State.trapJump] at h
  split at h
  · next a ha =>
    split at h
    · cases h
    · next ho => exact ⟨a, ha, by simpa using ho, by simpa using h.symm⟩
  · cases h

/-- Everything a trap entry that goes on can do: FLAG, two Writable words, SSP and PC. -/
theorem State.trapEntry_inv {s t : State} {n : BitVec 4} {spc : Word} (h : s.trapEntry n spc = .next t) :
    ∃ p q a, writable p = true ∧ writable (p + 1#16) = true ∧ writable q = true ∧ writable (q + 1#16) = true ∧
      isOdd a = false ∧
      t = ((((((s.setFlags s.flag.trapped).setWord p spc).setPReg .ssp (s.regs.ssp - 2#16)).setWord q
        s.flag.toWord).setPReg .ssp (s.regs.ssp - 2#16 - 2#16)).setPc a) := by
  simp only [State.trapEntry] at h
  split at h
  · next s1 h1 =>
    obtain ⟨p, hp, hp', rfl⟩ := State.trapPush_inv h1
    split at h
    · next s2 h2 =>
      obtain ⟨q, hq, hq', rfl⟩ := State.trapPush_inv h2
      obtain ⟨a, -, ha, rfl⟩ := State.trapJump_inv h
      exact ⟨p, q, a, hp, hp', hq, hq', ha, rfl⟩
    · cases h
    · cases h
  · cases h
  · cases h

/-- The state that trap entry ends in where it completes. -/
def State.trapped (s : State) (n : BitVec 4) (spc : Word) : State :=
  ((((trapPushed s spc).setFlags s.flag.trapped).setPReg .ssp (s.regs.ssp - 4#16)).setPc
    ((trapPushed s spc).wordAt (vectorAddr n)))

theorem Regs.set_set (r : Regs) (p : PReg) (v w : Word) : (r.set p v).set p w = r.set p w := by
  cases p <;> rfl

/-- The vectors are at even addresses. -/
theorem vectorAddr_even (n : BitVec 4) : isOdd (vectorAddr n) = false := by revert n; decide

/-- Trap entry completes where it is ready, in that state. -/
theorem State.trapEntry_ready {s : State} {n : BitVec 4} {spc : Word} (h : TrapReady s n spc) :
    s.trapEntry n spc = .next (s.trapped n spc) := by
  obtain ⟨hm, ho, hw2, hw4, hv⟩ := h
  have h22 : s.regs.ssp - 2#16 - 2#16 = s.regs.ssp - 4#16 := by bv_omega
  have e2 : isOdd (s.regs.ssp - 2#16) = false := by rw [isOdd_sub_two]; exact ho
  have e4 : isOdd (s.regs.ssp - 4#16) = false := by rw [isOdd_sub_four]; exact ho
  have p1 : (s.setFlags s.flag.trapped).trapPush spc =
      .done (((s.setFlags s.flag.trapped).setWord (s.regs.ssp - 2#16) spc).setPReg .ssp (s.regs.ssp - 2#16)) := by
    refine State.trapPush_done spc ?_ hw2 (writable_succ e2 hw2)
    rw [State.check_mmuOff (by simpa using hm)]; simp [e2]
  have p2 : (((s.setFlags s.flag.trapped).setWord (s.regs.ssp - 2#16) spc).setPReg .ssp
      (s.regs.ssp - 2#16)).trapPush s.flag.toWord =
      .done (((trapPushed s spc).setFlags s.flag.trapped).setPReg .ssp (s.regs.ssp - 4#16)) := by
    rw [State.trapPush_done (p := s.regs.ssp - 4#16) s.flag.toWord ?_ hw4 (writable_succ e4 hw4)]
    · simp only [State.setPReg_regs, Regs.set_ssp, h22]
      simp only [State.setPReg, State.setWord_regs, State.setFlags_regs, Regs.set_set]
      rfl
    · rw [State.check_mmuOff (by simpa using hm)]; simp [Regs.set_ssp, h22, e4]
  have hv' : (((trapPushed s spc).setFlags s.flag.trapped).setPReg .ssp (s.regs.ssp - 4#16)).loadWord .vectorFetch
      (vectorAddr n) = .ok ((trapPushed s spc).wordAt (vectorAddr n)) := by
    have hev : isOdd (vectorAddr n) = false := vectorAddr_even n
    exact State.loadWord_mmuOff (s := ((trapPushed s spc).setFlags s.flag.trapped).setPReg .ssp (s.regs.ssp - 4#16))
      (by simpa [trapPushed] using hm) .vectorFetch hev
  simp only [State.trapEntry, p1, p2, State.trapJump, hv', hv, Bool.false_eq_true, if_false]
  rfl

/-- That state is `s` after trap entry. -/
theorem State.trapped_taken (s : State) (n : BitVec 4) (spc : Word) : TrapTaken s (s.trapped n spc) n spc := by
  have hb : ∀ a, (s.trapped n spc).byteAt a = (trapPushed s spc).byteAt a := fun a => rfl
  have hw : ∀ a, (s.trapped n spc).wordAt a = (trapPushed s spc).wordAt a := fun a => rfl
  refine ⟨?_, ?_, rfl, rfl, rfl, rfl, ⟨rfl, rfl, rfl, rfl⟩, rfl, ?_, ?_, ?_⟩
  · rw [hw, trapPushed, State.wordAt_setWord_ne _ _ (by bv_omega) (by bv_omega) (by bv_omega) (by bv_omega)]
    simp
  · rw [hw, trapPushed]; simp
  · intro p hp
    exact Regs.get_set_ne _ _ (by simpa using hp)
  · intro a ha
    simp only [trapFrameBytes, List.mem_cons, List.not_mem_nil, or_false, not_or] at ha
    obtain ⟨h1, h2, h3, h4⟩ := ha
    rw [hb, trapPushed, State.byteAt_setWord, State.byteAt_setWord]
    have e1 : s.regs.ssp - 2#16 + 1#16 = s.regs.ssp - 1#16 := by bv_omega
    have e2 : s.regs.ssp - 4#16 + 1#16 = s.regs.ssp - 3#16 := by bv_omega
    simp [e1, e2, h1, h2, h3, h4]
  · exact ⟨rfl, rfl, rfl, rfl, rfl, rfl, rfl, rfl, rfl, rfl⟩

/-- Trap entry where it is ready: the next state, and what it holds. -/
theorem State.trapEntry_taken {s : State} {n : BitVec 4} {spc : Word} (h : TrapReady s n spc) :
    ∃ t, s.trapEntry n spc = .next t ∧ TrapTaken s t n spc :=
  ⟨_, State.trapEntry_ready h, State.trapped_taken s n spc⟩

/-- The saved PC of a fault is one of the three candidates. -/
theorem State.faultPc_mem (s : State) (len : Word) : SavedPc s len (s.faultPc len) := by
  simp only [SavedPc, State.faultPc]; split
  · exact .inl rfl
  · split
    · exact .inr (.inl rfl)
    · exact .inr (.inr rfl)

/-- Everything a fault that goes on can do. -/
theorem State.takeFault_inv {s t : State} {x : Exc} {len : Word} (h : s.takeFault x len = .next t) :
    ∃ spc, SavedPc s len spc ∧ s.nextDraw.trapEntry x.vector spc = .next t :=
  ⟨_, s.faultPc_mem len, h⟩

/-- A fault where trap entry is ready for every candidate: the next state, and what it holds. -/
theorem State.takeFault_taken {s : State} {x : Exc} {len : Word}
    (h : ∀ spc, SavedPc s len spc → TrapReady s x.vector spc) :
    ∃ spc t, SavedPc s len spc ∧ s.takeFault x len = .next t ∧ TrapTaken s t x.vector spc :=
  ⟨_, _, s.faultPc_mem len, State.trapEntry_ready (s := s.nextDraw) (h _ (s.faultPc_mem len)),
    State.trapped_taken s.nextDraw x.vector (s.faultPc len)⟩

/-- A push of trap entry, with the MMU off, to an odd SSP fails. -/
theorem State.trapPush_odd {s : State} (hm : s.mmuEn = false) (ho : isOdd s.regs.ssp = true) (v : Word) :
    s.trapPush v = .raises .invalidAddress := by
  have : isOdd (s.regs.ssp - 2#16) = true := by rw [isOdd_sub_two]; exact ho
  simp [State.trapPush, State.storeWord, State.check_mmuOff hm, this]

/-- A push of trap entry, with the MMU off, to an even address that can be written. -/
theorem State.trapPush_even {s : State} {q : Word} (hm : s.mmuEn = false) (hq : s.regs.ssp - 2#16 = q)
    (he : isOdd q = false) (hw : writable q = true) (v : Word) :
    s.trapPush v = .done ((s.setWord q v).setPReg .ssp q) := by
  subst hq
  exact State.trapPush_done v (by rw [State.check_mmuOff hm]; simp [he]) hw (writable_succ he hw)

/-- A push of trap entry, with the MMU off, to an even address that cannot be written. -/
theorem State.trapPush_readOnly {s : State} {q : Word} (hm : s.mmuEn = false) (hq : s.regs.ssp - 2#16 = q)
    (he : isOdd q = false) (hw : ¬ writable q = true) (v : Word) : s.trapPush v = .readOnly := by
  simp [State.trapPush, State.storeWord, State.check_mmuOff hm, hq, he, hw]

/-- Everything that trap entry can come to with the MMU off. -/
theorem State.trapEntry_outcome {s : State} (n : BitVec 4) (spc : Word) (hm : s.mmuEn = false) :
    TrapOutcome s n spc (s.trapEntry n spc) := by
  refine ⟨State.trapEntry_taken, fun hr => ?_⟩
  cases ho : isOdd s.regs.ssp with
  | true =>
    have := State.trapPush_odd (s := s.setFlags s.flag.trapped) hm ho spc
    refine .inl ?_
    simp only [State.trapEntry, this]
  | false =>
    have h22 : s.regs.ssp - 2#16 - 2#16 = s.regs.ssp - 4#16 := by bv_omega
    have e2 : isOdd (s.regs.ssp - 2#16) = false := by rw [isOdd_sub_two]; exact ho
    have e4 : isOdd (s.regs.ssp - 4#16) = false := by rw [isOdd_sub_four]; exact ho
    by_cases hw2 : writable (s.regs.ssp - 2#16) = true
    · have h1 := State.trapPush_even (s := s.setFlags s.flag.trapped) (q := s.regs.ssp - 2#16) hm rfl e2 hw2 spc
      by_cases hw4 : writable (s.regs.ssp - 4#16) = true
      · have h2 := State.trapPush_even
          (s := ((s.setFlags s.flag.trapped).setWord (s.regs.ssp - 2#16) spc).setPReg .ssp (s.regs.ssp - 2#16))
          hm h22 e4 hw4 s.flag.toWord
        simp only [State.trapEntry, h1, h2, State.trapJump]
        rw [State.loadWord_mmuOff (by simpa using hm) .vectorFetch (vectorAddr_even n)]
        dsimp only
        split
        · exact .inl rfl
        · next hh => exact absurd ⟨hm, ho, hw2, hw4, Bool.eq_false_iff.mpr hh⟩ hr
      · have h2 := State.trapPush_readOnly
          (s := ((s.setFlags s.flag.trapped).setWord (s.regs.ssp - 2#16) spc).setPReg .ssp (s.regs.ssp - 2#16))
          hm h22 e4 hw4 s.flag.toWord
        refine .inr ?_
        simp only [State.trapEntry, h1, h2]
    · refine .inr ?_
      simp only [State.trapEntry, State.trapPush_readOnly (s := s.setFlags s.flag.trapped) hm rfl e2 hw2 spc]

/-- Everything that a fault can come to with the MMU off. -/
theorem State.takeFault_outcome {s : State} (x : Exc) (len : Word) (hm : s.mmuEn = false) :
    ∃ spc, SavedPc s len spc ∧ TrapOutcome s x.vector spc (s.takeFault x len) :=
  ⟨_, s.faultPc_mem len, s.nextDraw.trapEntry_outcome x.vector (s.faultPc len) hm⟩

/-- Every trap entry that goes on, wherever the MMU puts its accesses. -/
theorem State.trapEntry_entered {s t : State} {n : BitVec 4} {spc : Word} (h : s.trapEntry n spc = .next t) :
    TrapEntered s t n := by
  have h22 : s.regs.ssp - 2#16 - 2#16 = s.regs.ssp - 4#16 := by bv_omega
  simp only [State.trapEntry, State.trapPush] at h
  split at h
  · next s1 h1 =>
    split at h1 <;> cases h1
    next s2 h2 =>
    obtain ⟨p, hp, -, -, rfl⟩ := State.storeWord_inv h2
    split at h
    · next s3 h3 =>
      split at h3 <;> cases h3
      next s4 h4 =>
      obtain ⟨q, hq, -, -, rfl⟩ := State.storeWord_inv h4
      obtain ⟨a, ha, -, rfl⟩ := State.trapJump_inv h
      refine ⟨h22, rfl, rfl, rfl, ⟨rfl, rfl, rfl, rfl⟩, ⟨q, ?_, State.wordAt_setWord_same _ _ _⟩, ?_⟩
      · exact hq
      · exact ha
    · cases h
    · cases h
  · cases h
  · cases h

/-! ## What a fault leaves free -/

/-- The two bytes of a word, from the even address they have in common. -/
theorem wordBase_cases {a c : Word} (h : wordBase a = c) : a = c ∨ a = c + 1#16 := by
  subst h
  have h1 := wordBase_toNat a
  have := a.isLt
  rcases Nat.mod_two_eq_zero_or_one a.toNat with h2 | h2
  · left; apply BitVec.eq_of_toNat_eq; omega
  · right
    apply BitVec.eq_of_toNat_eq
    rw [BitVec.toNat_add, h1, show (1#16).toNat = 1 from rfl]
    omega

/-- What a free byte leaves alone: everything but memory, the other bytes, and what is not Writable. -/
theorem State.drawByte_frame (s : State) (a : Word) :
    ∃ m, s.drawByte a = s.setMem m ∧ (s.mem.wf = true → m.wf = true) ∧
      ∀ b, b ≠ a ∨ writable b = false → (s.setMem m).byteAt b = s.byteAt b := by
  unfold State.drawByte
  split
  · next hw =>
    refine ⟨_, rfl, fun h => State.wf_setByte h _ _, fun b hb => ?_⟩
    have := State.byteAt_setByte s a b (Config.faultByte s.tick a)
    rw [if_neg (by rintro rfl; rcases hb with h | h <;> simp_all)] at this
    exact this
  · exact ⟨s.mem, rfl, id, fun _ _ => rfl⟩

/-- What a free word leaves alone: everything but memory, the other words, and what is not Writable. -/
theorem State.drawWord_frame (s : State) (a : Word) :
    ∃ m, s.drawWord a = s.setMem m ∧ (s.mem.wf = true → m.wf = true) ∧
      ∀ b, wordBase b ≠ wordBase a ∨ writable b = false → (s.setMem m).byteAt b = s.byteAt b := by
  obtain ⟨m, h1, w1, f1⟩ := s.drawByte_frame (wordBase a)
  obtain ⟨m', h2, w2, f2⟩ := (s.setMem m).drawByte_frame (wordBase a + 1#16)
  refine ⟨m', by rw [State.drawWord, h1, h2]; rfl, fun h => w2 (w1 h), fun b hb => ?_⟩
  have e1 : wordBase (wordBase a) = wordBase a := by
    apply BitVec.eq_of_toNat_eq; rw [wordBase_toNat, wordBase_toNat]; omega
  have e2 : isOdd (wordBase a) = false := by rw [isOdd_eq, wordBase_toNat]; simp
  have hb' : (b ≠ wordBase a ∨ writable b = false) ∧ (b ≠ wordBase a + 1#16 ∨ writable b = false) := by
    rcases hb with hb | hb
    · refine ⟨.inl ?_, .inl ?_⟩ <;> rintro rfl
      · exact hb e1
      · exact hb (by rw [wordBase_succ e2, e1])
    · exact ⟨.inr hb, .inr hb⟩
  exact (f2 b hb'.2).trans (f1 b hb'.1)

/-- What a faulting store leaves alone: everything but memory, the words outside those that contain its bytes, and what is
not Writable. -/
theorem State.drawStore_frame (s : State) (byte : Bool) (a : Word) :
    ∃ m, s.drawStore byte a = s.setMem m ∧ (s.mem.wf = true → m.wf = true) ∧
      ∀ b, (wordBase b ≠ wordBase (s.translate .write a).phys ∧
          wordBase b ≠ wordBase ((s.translate .write a).phys + 1#16)) ∨ writable b = false →
        (s.setMem m).byteAt b = s.byteAt b := by
  obtain ⟨m, h1, w1, f1⟩ := s.drawWord_frame (s.translate .write a).phys
  cases byte with
  | true => exact ⟨m, h1, w1, fun b hb => f1 b (hb.imp And.left id)⟩
  | false =>
    obtain ⟨m', h2, w2, f2⟩ := (s.setMem m).drawWord_frame ((s.translate .write a).phys + 1#16)
    exact ⟨m', by simp only [State.drawStore, Bool.false_eq_true, if_false, h1, h2]; rfl, fun h => w2 (w1 h),
      fun b hb => (f2 b (hb.imp And.right id)).trans (f1 b (hb.imp And.left id))⟩

/-! ## The frames of the instruction families -/

/-- The frame of the register-writing instructions where the operand is there. -/
theorem State.aluOp_ok {s : State} {rd : Reg} {src : Src} {b : Word} (result : Word → Word → Word)
    (cond : Word → Word → Cond → Cond) (h : s.operand src = .ok b) :
    s.aluOp rd src result cond =
      .next ((((s.setReg rd (result (s.reg rd) b)).setCond
        (cond (s.reg rd) b (Config.flagDraw s.tick))).nextDraw).advance (srcLen src)) := by
  simp [State.aluOp, h]

/-- The frame of the register-writing instructions where the operand is not. -/
theorem State.aluOp_error {s : State} {rd : Reg} {src : Src} {x : Exc} (result : Word → Word → Word)
    (cond : Word → Word → Cond → Cond) (h : s.operand src = .error x) :
    s.aluOp rd src result cond = (s.drawResult rd).takeFault x (srcLen src) := by
  simp [State.aluOp, h]

/-- A register written and nothing else but V, C, S, Z, PC and `tick`. -/
theorem writesOnly_aluOp (s : State) (rd : Reg) (v len : Word) (c : Cond) :
    WritesOnly s ((((s.setReg rd v).setCond c).nextDraw).advance len) [bank s.flag.p rd] :=
  ⟨fun _ hp => Regs.get_set_ne _ _ (by simpa using hp), ⟨rfl, rfl, rfl⟩, fun _ => rfl,
    ⟨rfl, rfl, rfl, rfl, rfl, rfl, rfl, rfl, rfl, rfl⟩⟩

/-- The register written reads as written. -/
theorem reg_aluOp (s : State) (rd : Reg) (v len : Word) (c : Cond) :
    ((((s.setReg rd v).setCond c).nextDraw).advance len).reg rd = v :=
  Regs.get_set_same _ _ _

/-- A register just written reads as written. -/
@[simp] theorem State.reg_setReg_same (s : State) (r : Reg) (v : Word) : (s.setReg r v).reg r = v :=
  Regs.get_set_same _ _ _

/-- The pairs of MULL and DIVL. -/
theorem pairHigh_mem {rd hi : Reg} (h : (rd, hi) ∈ registerPairs) : pairHigh rd = some hi := by
  revert h; cases rd <;> cases hi <;> decide

/-- A register that is first of no pair has none. -/
theorem pairHigh_none {rd : Reg} (h : ∀ hi, (rd, hi) ∉ registerPairs) : pairHigh rd = none := by
  have hp : ∀ r : Reg, pairHigh r = none ∨ ∃ hi, pairHigh r = some hi ∧ (r, hi) ∈ registerPairs := by
    intro r; cases r <;> simp [pairHigh, registerPairs]
  rcases hp rd with h1 | ⟨hi, -, h2⟩
  · exact h1
  · exact absurd h2 (h hi)

/-- The two registers of a pair are stored apart. -/
theorem bank_pair_ne {rd hi : Reg} (p : Bool) (h : (rd, hi) ∈ registerPairs) : bank p rd ≠ bank p hi := by
  revert h; cases p <;> cases rd <;> cases hi <;> decide

/-- The stack pointer that PUSH and POP refuse. -/
theorem State.namesSp_iff (s : State) (r : Reg) : s.namesSp r = true ↔ IsStackPointer s r := by
  simp only [State.namesSp, IsStackPointer]
  cases s.flag.p <;> cases r <;> simp [bank]

/-- A register that is not the stack pointer is stored apart from it. -/
theorem State.bank_ne_sp {s : State} {r : Reg} (h : ¬ IsStackPointer s r) : bank s.flag.p r ≠ bank s.flag.p .sp := by
  intro hb
  exact h ((s.namesSp_iff r).mp (by simp [State.namesSp, hb]))

/-! ## The devices -/

/-- What the uSD controller leaves alone, whatever it writes: everything but memory and the
transfer, and every byte that is not Writable. -/
theorem State.agentWrites_frame (l : List (Word × Byte)) (s : State) :
    ∃ m, s.agentWrites l = s.setMem m ∧ (s.mem.wf = true → m.wf = true) ∧
      ∀ a, writable a = false → (s.setMem m).byteAt a = s.byteAt a := by
  induction l generalizing s with
  | nil => exact ⟨s.mem, rfl, id, fun _ _ => rfl⟩
  | cons c rest ih =>
    simp only [State.agentWrites, State.agentWrite]
    split
    · next hw =>
      obtain ⟨m, h1, h2, h3⟩ := ih (s.setByte c.1 c.2)
      refine ⟨m, h1, fun h => h2 (State.wf_setByte h _ _), fun a ha => ?_⟩
      have := h3 a ha
      rw [State.byteAt_setByte, if_neg (fun hh => by subst hh; simp_all)] at this
      exact this
    · exact ih s

/-- What the uSD controller leaves alone at a boundary. -/
theorem State.usdStep_frame (s : State) :
    ∃ m u, s.usdStep = { s.setMem m with usd := u } ∧ (s.mem.wf = true → m.wf = true) ∧
      (∀ a, writable a = false → (s.setMem m).byteAt a = s.byteAt a) ∧
      ((∀ x, s.usd = some x → x.toMemory = false) → m = s.mem) := by
  simp only [State.usdStep]
  split
  · next h => exact ⟨s.mem, s.usd, rfl, id, fun _ _ => rfl, fun _ => rfl⟩
  · next x hx =>
    split
    · next hm =>
      obtain ⟨m, h1, h2, h3⟩ := s.agentWrites_frame (Config.usdWrites s.tick x)
      exact ⟨m, _, by rw [h1], h2, h3, fun h => by simp [h x hx] at hm⟩
    · exact ⟨s.mem, _, rfl, id, fun _ _ => rfl, fun _ => rfl⟩

/-- What the devices leave alone at a boundary. -/
theorem State.boundary_frame (s : State) :
    ∃ m u, s.boundary =
        { s.setMem m with
          usd := u, inp := Config.deviceInputs s.tick,
          pending := s.pending ||| (Config.deviceRequests s.tick &&& s.irqEnabled), tick := s.tick + 1 } ∧
      (s.mem.wf = true → m.wf = true) ∧ (∀ a, writable a = false → (s.setMem m).byteAt a = s.byteAt a) ∧
      ((∀ x, s.usd = some x → x.toMemory = false) → m = s.mem) := by
  obtain ⟨m, u, h1, h2, h3, h4⟩ := s.usdStep_frame
  exact ⟨m, u, by rw [State.boundary, h1], h2, h3, h4⟩

/-- The lowest pending source of those listed is pending, where one of them is. -/
theorem lowestPending_spec (b : BitVec 10) (l : List Nat) (h : ∃ n ∈ l, b.getLsbD n = true) :
    lowestPending b l ∈ l ∧ b.getLsbD (lowestPending b l) = true := by
  induction l with
  | nil => obtain ⟨n, hn, -⟩ := h; cases hn
  | cons k rest ih =>
    simp only [lowestPending]
    split
    · next hk => exact ⟨List.mem_cons_self, hk⟩
    · next hk =>
      obtain ⟨n, hn, hb⟩ := h
      have : ∃ n ∈ rest, b.getLsbD n = true := by
        rcases List.mem_cons.mp hn with rfl | h'
        · exact absurd hb hk
        · exact ⟨n, h', hb⟩
      exact ⟨List.mem_cons_of_mem _ (ih this).1, (ih this).2⟩

/-- The source taken is one of those pending. -/
theorem State.irqTaken_spec {s : State} (h : s.pending ≠ 0#10) :
    s.irqTaken < 10 ∧ s.pending.getLsbD s.irqTaken = true := by
  simp only [State.irqTaken]
  split
  · next hc => exact ⟨(Config.irqChoice s.tick).isLt, hc⟩
  · have hex : ∃ n ∈ List.range 10, s.pending.getLsbD n = true := by
      by_contra hne
      refine h (BitVec.eq_of_getLsbD_eq fun i hi => ?_)
      by_contra hb
      exact hne ⟨i, by simpa using hi, by simpa using hb⟩
    have := lowestPending_spec s.pending _ hex
    exact ⟨by simpa using this.1, this.2⟩

/-- The acceptance clears no other request. -/
theorem State.irqCleared_other (s : State) {m : Nat} (h : m ≠ s.irqTaken) :
    s.irqCleared.getLsbD m = s.pending.getLsbD m := by
  simp only [State.irqCleared]
  split
  · rfl
  · by_cases hm : m < 10
    · simp [hm]; intro _; omega
    · simp [BitVec.getLsbD_of_ge _ _ (Nat.le_of_not_lt hm)]

/-! ## Fetch -/

/-- A first word that is no instruction is rejected for the reason it is none, whatever follows it. -/
theorem State.fetch_rejected {s : State} {w1 w2 : Word} {e : DecodeErr} (h : s.loadWord .fetch s.pc = .ok w1)
    (hd : decode w1 w2 = .error e) : s.fetch = .rejected e := by
  simp only [State.fetch, h, decode_error_second hd]

/-- Everything a fetch that gives an instruction can do: it decodes the words at PC, the second one only where there is
one. -/
theorem State.fetch_inv {s : State} {i : Instr} (h : s.fetch = .instr i) :
    ∃ w1 w2, s.loadWord .fetch s.pc = .ok w1 ∧ decode w1 w2 = .ok i ∧
      (hasSecondWord (Fields.ofWord w1) = true → s.loadWord .fetch (s.pc + 2#16) = .ok w2) := by
  simp only [State.fetch] at h
  split at h
  · cases h
  · next w1 h1 =>
    split at h
    · cases h
    · next j hj =>
      split at h
      · split at h
        · cases h
        · next w2 h2 =>
          cases hd : decode w1 w2 with
          | error e => rw [hd] at h; cases h
          | ok k => rw [hd] at h; cases h; exact ⟨w1, w2, h1, hd, fun _ => h2⟩
      · next hs => cases h; exact ⟨w1, 0#16, h1, hj, fun hh => absurd hh hs⟩

/-! ## I/O -/

/-- What a byte written to the I/O space leaves alone. -/
theorem State.ioSetByte_frame (s : State) (a v : Byte) :
    (s.ioSetByte a v).regs = s.regs ∧ (s.ioSetByte a v).pc = s.pc ∧ (s.ioSetByte a v).flag = s.flag ∧
      (s.ioSetByte a v).mem = s.mem ∧ (s.ioSetByte a v).pending = s.pending ∧ (s.ioSetByte a v).halted = s.halted ∧
      (s.ioSetByte a v).mode = s.mode ∧ (s.ioSetByte a v).inp = s.inp ∧ (s.ioSetByte a v).ioLog = s.ioLog ∧
      (s.ioSetByte a v).tick = s.tick := by
  unfold State.ioSetByte
  split <;> exact ⟨rfl, rfl, rfl, rfl, rfl, rfl, rfl, rfl, rfl, rfl⟩

/-- What a write to a port leaves alone. -/
theorem State.ioStore_frame (s : State) (byte : Bool) (a : Byte) (v : Word) :
    (s.ioStore byte a v).regs = s.regs ∧ (s.ioStore byte a v).pc = s.pc ∧ (s.ioStore byte a v).flag = s.flag ∧
      (s.ioStore byte a v).mem = s.mem ∧ (s.ioStore byte a v).pending = s.pending ∧
      (s.ioStore byte a v).halted = s.halted ∧ (s.ioStore byte a v).mode = s.mode ∧
      (s.ioStore byte a v).inp = s.inp ∧ (s.ioStore byte a v).ioLog = s.ioLog ∧
      (s.ioStore byte a v).tick = s.tick := by
  cases byte with
  | true => exact s.ioSetByte_frame a (loByte v)
  | false =>
    obtain ⟨a1, a2, a3, a4, a5, a6, a7, a8, a9, a10⟩ := s.ioSetByte_frame a (hiByte v)
    obtain ⟨b1, b2, b3, b4, b5, b6, b7, b8, b9, b10⟩ := (s.ioSetByte a (hiByte v)).ioSetByte_frame (a + 1#8) (loByte v)
    exact ⟨b1.trans a1, b2.trans a2, b3.trans a3, b4.trans a4, b5.trans a5, b6.trans a6, b7.trans a7, b8.trans a8,
      b9.trans a9, b10.trans a10⟩

/-- RN4020-Cmd stays at its initial value until a write to it is noted. -/
theorem State.ioSetByte_rn4020 {s : State} (h : s.out.rn4020CmdWritten = false → s.out.rn4020Cmd = 0b0001#4)
    (a v : Byte) : (s.ioSetByte a v).out.rn4020CmdWritten = false → (s.ioSetByte a v).out.rn4020Cmd = 0b0001#4 := by
  unfold State.ioSetByte
  split <;> first | exact h | exact fun hh => absurd hh (by simp)

/-- RN4020-Cmd stays at its initial value until an I/O write of either width is noted. -/
theorem State.ioStore_rn4020 {s : State} (h : s.out.rn4020CmdWritten = false → s.out.rn4020Cmd = 0b0001#4)
    (byte : Bool) (a : Byte) (v : Word) :
    (s.ioStore byte a v).out.rn4020CmdWritten = false → (s.ioStore byte a v).out.rn4020Cmd = 0b0001#4 := by
  cases byte with
  | true => exact State.ioSetByte_rn4020 h _ _
  | false => exact State.ioSetByte_rn4020 (State.ioSetByte_rn4020 h _ _) _ _

/-- What an I/O write leaves alone. -/
theorem State.ioWrite_frame (s : State) (byte : Bool) (a : Byte) (v : Word) :
    (s.ioWrite byte a v).regs = s.regs ∧ (s.ioWrite byte a v).pc = s.pc ∧ (s.ioWrite byte a v).flag = s.flag ∧
      (s.ioWrite byte a v).mem = s.mem ∧ (s.ioWrite byte a v).halted = s.halted ∧
      (s.ioWrite byte a v).mode = s.mode ∧ (s.ioWrite byte a v).inp = s.inp := by
  obtain ⟨h1, h2, h3, h4, -, h6, h7, h8, -, -⟩ := s.ioStore_frame byte a v
  exact ⟨h1, h2, h3, h4, h6, h7, h8⟩

/-- Everything a faulting OUT can leave: nothing written, or one I/O write. -/
theorem State.drawOut_cases (s : State) (byte : Bool) :
    s.drawOut byte = s ∨ ∃ a v, s.drawOut byte = s.ioWrite byte a v := by
  simp only [State.drawOut]
  split
  · exact .inl rfl
  · split
    · exact .inl rfl
    · next a v _ => exact .inr ⟨a, v, rfl⟩

/-- Everything a faulting IN can leave: Rd free, with no request cleared or with those an I/O access may clear. -/
theorem State.drawIn_cases (s : State) (rd : Reg) :
    s.drawIn rd = s.drawReg rd 0 ∨ s.drawIn rd = (s.drawReg rd 0).ioSettle := by
  simp only [State.drawIn]
  split
  · exact .inl rfl
  · exact .inr rfl

end Sys2Proof.Machine
end

