-- ==== Sys2Proof/Laws/PerInstr.lean ====
section
/-! SUPPORT. Statements made for each instruction. EncodedLength: the encoding of an instruction is in a cell of the opcode
map that is not blank, and it has a second word exactly where the length rule of 30_encoding R82 says so. -/

namespace Sys2Proof.Laws.EncodedLength

open Sys2Proof

/-- The encoding's cell is defined, and its length is that of the length rule (30_encoding R82, R98). -/
def Statement (i : Instr) : Prop :=
  hasSecondWord (encodeFields i).1 = (encodeFields i).2.isSome ∧
    opDefined (encodeFields i).1.op5 (encodeFields i).1.mode = true

/-- A row of the opcode map whose eight cells are all defined. -/
theorem opDefined_full {op : BitVec 5} (m : BitVec 3) (h : opcodeModes op = 255#8) : opDefined op m = true := by
  simp only [opDefined, h]; revert m; decide

/-- The instructions with a source operand. -/
theorem of_src {i : Instr} (op : BitVec 5) (rd : BitVec 4) (src : Src) (he : hasEa op = true)
    (hm : opcodeModes op = 255#8) (hi : encodeFields i = encodeEa op rd (encodeSrc src)) : Statement i := by
  simp only [Statement, hi, encodeEa, hasSecondWord, he, opDefined_full _ hm, and_true, Bool.true_and]
  rcases src with (_ | _ | _ | _ | _) | _ | _ | _ <;> simp [encodeSrc, encodeLoc]

/-- The jumps and CALL. -/
theorem of_target {i : Instr} (op : BitVec 5) (rd : BitVec 4) (t : Target) (he : hasEa op = true)
    (hm : opcodeModes op = 0b01000011#8) (hi : encodeFields i = encodeEa op rd (encodeTarget t)) : Statement i := by
  simp only [Statement, hi, encodeEa, hasSecondWord, he, opDefined, hm, Bool.true_and]
  rcases t with _ | _ | _ <;> simp [encodeTarget]

/-- IN and OUT. -/
theorem of_port {i : Instr} (op : BitVec 5) (rd : BitVec 4) (p : Port) (he : hasEa op = true)
    (hm : opcodeModes op = 0b11000001#8) (hi : encodeFields i = encodeEa op rd (encodePort p)) : Statement i := by
  simp only [Statement, hi, encodeEa, hasSecondWord, he, opDefined, hm, Bool.true_and]
  rcases p with _ | _ | _ <;> simp [encodePort]

/-- ST. -/
theorem of_loc {i : Instr} (op : BitVec 5) (rd : BitVec 4) (l : Loc) (he : hasEa op = true)
    (hm : opcodeModes op = 0b11011011#8) (hi : encodeFields i = encodeEa op rd (encodeLoc l)) : Statement i := by
  simp only [Statement, hi, encodeEa, hasSecondWord, he, opDefined, hm, Bool.true_and]
  rcases l with _ | _ | _ | _ | _ <;> simp [encodeLoc]

/-- The instructions without an effective address. -/
theorem of_other {i : Instr} (op : BitVec 5) (mode : BitVec 3) (rd : BitVec 4)
    (h : (hasEa op && decide (mode.toNat ≤ 2)) = false ∧ opDefined op mode = true)
    (hi : encodeFields i = encodeOther op mode rd) : Statement i := by
  simp only [Statement, hi, encodeOther, hasSecondWord]
  exact ⟨h.1, h.2⟩

theorem no : Statement .no := of_other 0b00000#5 0#3 0#4 (by decide) rfl

theorem ld (rd : Reg) (src : Src) : Statement (.ld rd src) :=
  of_src 0b00001#5 rd.bits src (by decide) (by decide) rfl

theorem ldFlag (rd : Reg) : Statement (.ldFlag rd) :=
  of_other 0b00010#5 4#3 rd.bits (by decide) rfl

theorem st (rd : Reg) (loc : Loc) : Statement (.st rd loc) :=
  of_loc 0b00010#5 rd.bits loc (by decide) (by decide) rfl

theorem add (rd : Reg) (src : Src) : Statement (.add rd src) :=
  of_src 0b00011#5 rd.bits src (by decide) (by decide) rfl

theorem sub (rd : Reg) (src : Src) : Statement (.sub rd src) :=
  of_src 0b00100#5 rd.bits src (by decide) (by decide) rfl

theorem cmp (rd : Reg) (src : Src) : Statement (.cmp rd src) :=
  of_src 0b00101#5 rd.bits src (by decide) (by decide) rfl

theorem and (rd : Reg) (src : Src) : Statement (.and rd src) :=
  of_src 0b00110#5 rd.bits src (by decide) (by decide) rfl

theorem or (rd : Reg) (src : Src) : Statement (.or rd src) :=
  of_src 0b00111#5 rd.bits src (by decide) (by decide) rfl

theorem xor (rd : Reg) (src : Src) : Statement (.xor rd src) :=
  of_src 0b01000#5 rd.bits src (by decide) (by decide) rfl

theorem adds (rd : Reg) (src : Src) : Statement (.adds rd src) :=
  of_src 0b01001#5 rd.bits src (by decide) (by decide) rfl

theorem mul (rd : Reg) (src : Src) : Statement (.mul rd src) :=
  of_src 0b01010#5 rd.bits src (by decide) (by decide) rfl

theorem div (rd : Reg) (src : Src) : Statement (.div rd src) :=
  of_src 0b01011#5 rd.bits src (by decide) (by decide) rfl

theorem mod (rd : Reg) (src : Src) : Statement (.mod rd src) :=
  of_src 0b01100#5 rd.bits src (by decide) (by decide) rfl

theorem mull (rd : Reg) (src : Src) : Statement (.mull rd src) :=
  of_src 0b01101#5 rd.bits src (by decide) (by decide) rfl

theorem divl (rd : Reg) (src : Src) : Statement (.divl rd src) :=
  of_src 0b01110#5 rd.bits src (by decide) (by decide) rfl

theorem shla (rd : Reg) (src : Src) : Statement (.shla rd src) :=
  of_src 0b10000#5 rd.bits src (by decide) (by decide) rfl

theorem shll (rd : Reg) (src : Src) : Statement (.shll rd src) :=
  of_src 0b10001#5 rd.bits src (by decide) (by decide) rfl

theorem shra (rd : Reg) (src : Src) : Statement (.shra rd src) :=
  of_src 0b10010#5 rd.bits src (by decide) (by decide) rfl

theorem shrl (rd : Reg) (src : Src) : Statement (.shrl rd src) :=
  of_src 0b10011#5 rd.bits src (by decide) (by decide) rfl

theorem jz (t : Target) : Statement (.jz t) :=
  of_target 0b10100#5 0x0#4 t (by decide) (by decide) rfl

theorem jc (t : Target) : Statement (.jc t) :=
  of_target 0b10100#5 0x1#4 t (by decide) (by decide) rfl

theorem jm (t : Target) : Statement (.jm t) :=
  of_target 0b10100#5 0x2#4 t (by decide) (by decide) rfl

theorem jo (t : Target) : Statement (.jo t) :=
  of_target 0b10100#5 0x3#4 t (by decide) (by decide) rfl

theorem jgt (t : Target) : Statement (.jgt t) :=
  of_target 0b10100#5 0x4#4 t (by decide) (by decide) rfl

theorem jge (t : Target) : Statement (.jge t) :=
  of_target 0b10100#5 0x5#4 t (by decide) (by decide) rfl

theorem jle (t : Target) : Statement (.jle t) :=
  of_target 0b10100#5 0x6#4 t (by decide) (by decide) rfl

theorem jlt (t : Target) : Statement (.jlt t) :=
  of_target 0b10100#5 0x7#4 t (by decide) (by decide) rfl

theorem jnz (t : Target) : Statement (.jnz t) :=
  of_target 0b10100#5 0x8#4 t (by decide) (by decide) rfl

theorem jnc (t : Target) : Statement (.jnc t) :=
  of_target 0b10100#5 0x9#4 t (by decide) (by decide) rfl

theorem jnm (t : Target) : Statement (.jnm t) :=
  of_target 0b10100#5 0xA#4 t (by decide) (by decide) rfl

theorem jno (t : Target) : Statement (.jno t) :=
  of_target 0b10100#5 0xB#4 t (by decide) (by decide) rfl

theorem jhi (t : Target) : Statement (.jhi t) :=
  of_target 0b10100#5 0xC#4 t (by decide) (by decide) rfl

theorem jls (t : Target) : Statement (.jls t) :=
  of_target 0b10100#5 0xE#4 t (by decide) (by decide) rfl

theorem jmp (t : Target) : Statement (.jmp t) :=
  of_target 0b10100#5 0xF#4 t (by decide) (by decide) rfl

theorem call (t : Target) : Statement (.call t) :=
  of_target 0b10101#5 0#4 t (by decide) (by decide) rfl

theorem inp (rd : Reg) (port : Port) : Statement (.inp rd port) :=
  of_port 0b10110#5 rd.bits port (by decide) (by decide) rfl

theorem out (rd : Reg) (port : Port) : Statement (.out rd port) :=
  of_port 0b10111#5 rd.bits port (by decide) (by decide) rfl

theorem push (rd : Reg) : Statement (.push rd) :=
  of_other 0b11000#5 0#3 rd.bits (by decide) rfl

theorem pop (rd : Reg) : Statement (.pop rd) :=
  of_other 0b11000#5 4#3 rd.bits (by decide) rfl

theorem ret : Statement .ret := of_other 0b11010#5 0#3 0#4 (by decide) rfl

theorem reti : Statement .reti := of_other 0b11010#5 4#3 0#4 (by decide) rfl

theorem ei : Statement .ei := of_other 0b11100#5 0#3 0#4 (by decide) rfl

theorem di : Statement .di := of_other 0b11100#5 4#3 0#4 (by decide) rfl

theorem svc : Statement .svc := of_other 0b11110#5 0#3 0#4 (by decide) rfl

theorem halt : Statement .halt := of_other 0b11111#5 7#3 0#4 (by decide) rfl

end Sys2Proof.Laws.EncodedLength
end

