-- ==== Sys2Proof/Tests/Slice0.lean ====
section
/-! SUPPORT. Tests: ill-formed operands are refused; words written out from the encoding tables of 30_encoding decode to
what 95_test_vectors 2.1 says; single steps give what the tables of 95_test_vectors 2.2-2.12 say; and for every statement
of the certificate that has hypotheses, a state and operands that meet them, at the ends of the ranges. -/

namespace Sys2Proof.Tests

open Sys2Proof Sys2Proof.Machine

/-! ## Helpers -/

/-- Privileged mode, MMU off, PC = 0100h, SSP = 0300h, USP = 0280h, every vector pointing to 0400h; the rest as after
reset. -/
def base : State :=
  (((State.reset.setPReg .ssp 0x0300#16).setPReg .usp 0x0280#16).setPc 0x0100#16).setMem
    ((List.range 32).map fun k => (0xFFE0 + k, if k % 2 = 0 then 0x04#8 else 0x00#8))

/-- `base` in user mode. -/
def user : State := base.setFlags { base.flag with p := false }

/-- `base` with G0, G1 and G2. -/
def regs3 (a b c : Word) : State := ((base.setPReg .g0 a).setPReg .g1 b).setPReg .g2 c

/-- `base` with the bytes of 95_test_vectors 2.8: 12h, 34h, A5h, 00h at 1000h. -/
def data : State := (base.setWord 0x1000#16 0x1234#16).setWord 0x1002#16 0xA500#16

/-- What a field of the next state holds, if there is one. -/
def after {α : Type} (r : Result) (f : State → α) : Option α :=
  match r with
  | .next t => some (f t)
  | .fault _ => none
  | .refused _ => none

/-- The refusal, if there is one. -/
def refusal (r : Result) : Option Refusal :=
  match r with
  | .next _ => none
  | .fault _ => none
  | .refused e => some e

/-- V, C, S, Z. -/
def vcsz (t : State) : Bool × Bool × Bool × Bool := (t.flag.v, t.flag.c, t.flag.s, t.flag.z)

/-- S, Z. -/
def sz (t : State) : Bool × Bool := (t.flag.s, t.flag.z)

/-- Trap entry is ready, whatever PC is saved, where SSP is 0300h and the vector holds an even address. -/
theorem ready {s : State} {n : BitVec 4} (h1 : s.mmuEn = false) (h2 : s.regs.ssp = 0x0300#16)
    (h3 : isOdd (s.wordAt (vectorAddr n)) = false) (spc : Word) : TrapReady s n spc := by
  have e2 : s.regs.ssp - 2#16 = 0x02FE#16 := by rw [h2]; rfl
  have e4 : s.regs.ssp - 4#16 = 0x02FC#16 := by rw [h2]; rfl
  have hv : ∀ m : BitVec 4, vectorAddr m ≠ 0x02FE#16 ∧ vectorAddr m ≠ 0x02FE#16 + 1#16 ∧
      vectorAddr m + 1#16 ≠ 0x02FE#16 ∧ vectorAddr m + 1#16 ≠ 0x02FE#16 + 1#16 ∧ vectorAddr m ≠ 0x02FC#16 ∧
      vectorAddr m ≠ 0x02FC#16 + 1#16 ∧ vectorAddr m + 1#16 ≠ 0x02FC#16 ∧
      vectorAddr m + 1#16 ≠ 0x02FC#16 + 1#16 := by decide
  obtain ⟨a1, a2, a3, a4, b1, b2, b3, b4⟩ := hv n
  refine ⟨h1, by rw [h2]; decide, by rw [e2]; decide, by rw [e4]; decide, ?_⟩
  rw [trapPushed, e2, e4, State.wordAt_setWord_ne _ _ b1 b2 b3 b4, State.wordAt_setWord_ne _ _ a1 a2 a3 a4]
  exact h3

/-! ## Well-formedness: each check refuses an ill-formed term -/

theorem test_wf_mull_odd : (Instr.mull .g1 (.imm4 0#4)).wf = false := by decide
theorem test_wf_divl_fp : (Instr.divl .fp (.imm4 0#4)).wf = false := by decide
theorem test_wf_push_sp : (Instr.push .sp).wf = false := by decide
theorem test_wf_pop_sp : (Instr.pop .sp).wf = false := by decide

/-! ## Decoding words written out from the tables (30_encoding R80, R97, R98) -/

/-- LD in its eight modes: `00001 mode Rd Rx`. -/
theorem test_decode_ld :
    decode 0b00001_000_0001_0000#16 0x1234#16 = .ok (.ld .g1 (.loc (.direct 0x1234#16))) ∧
      decode 0b00001_001_0001_0010#16 0x1234#16 = .ok (.ld .g1 (.loc (.indexed 0x1234#16 .g2))) ∧
      decode 0b00001_010_0001_0000#16 0x1234#16 = .ok (.ld .g1 (.imm 0x1234#16)) ∧
      decode 0b00001_011_0001_1111#16 0#16 = .ok (.ld .g1 (.loc (.fpRel 0xF#4))) ∧
      decode 0b00001_100_0001_0010#16 0#16 = .ok (.ld .g1 (.reg .g2)) ∧
      decode 0b00001_101_0001_1111#16 0#16 = .ok (.ld .g1 (.imm4 0xF#4)) ∧
      decode 0b00001_110_0001_0010#16 0#16 = .ok (.ld .g1 (.loc (.indirect .g2))) ∧
      decode 0b00001_111_0001_0010#16 0#16 = .ok (.ld .g1 (.loc (.byteIndirect .g2))) := by decide

/-- NO, LD Rd,FLAG and ST in its five modes: `00010 mode Rd Rx`. -/
theorem test_decode_no_ldFlag_st :
    decode 0b00000_000_0000_0000#16 0#16 = .ok .no ∧
      decode 0b00010_100_0101_0000#16 0#16 = .ok (.ldFlag .g5) ∧
      decode 0b00010_000_0011_0000#16 0x1000#16 = .ok (.st .g3 (.direct 0x1000#16)) ∧
      decode 0b00010_001_0011_0001#16 0x1000#16 = .ok (.st .g3 (.indexed 0x1000#16 .g1)) ∧
      decode 0b00010_011_0011_0011#16 0#16 = .ok (.st .g3 (.fpRel 3#4)) ∧
      decode 0b00010_110_0000_0001#16 0#16 = .ok (.st .g0 (.indirect .g1)) ∧
      decode 0b00010_111_0000_0001#16 0#16 = .ok (.st .g0 (.byteIndirect .g1)) := by decide

/-- 41_alu: rows 00011 to 01001, mode 4. -/
theorem test_decode_alu :
    decode 0b00011_100_0011_1110#16 0#16 = .ok (.add .g3 (.reg .usp)) ∧
      decode 0b00100_100_0011_1101#16 0#16 = .ok (.sub .g3 (.reg .sp)) ∧
      decode 0b00101_100_0011_1100#16 0#16 = .ok (.cmp .g3 (.reg .fp)) ∧
      decode 0b00110_100_0011_1011#16 0#16 = .ok (.and .g3 (.reg .g11)) ∧
      decode 0b00111_100_0011_1010#16 0#16 = .ok (.or .g3 (.reg .g10)) ∧
      decode 0b01000_100_0011_1001#16 0#16 = .ok (.xor .g3 (.reg .g9)) ∧
      decode 0b01001_100_0011_1000#16 0#16 = .ok (.adds .g3 (.reg .g8)) := by decide

/-- 42_muldiv and 43_shift: rows 01010 to 01110 and 10000 to 10011. -/
theorem test_decode_muldiv_shift :
    decode 0b01010_100_0011_0111#16 0#16 = .ok (.mul .g3 (.reg .g7)) ∧
      decode 0b01011_100_0011_0110#16 0#16 = .ok (.div .g3 (.reg .g6)) ∧
      decode 0b01100_100_0011_0101#16 0#16 = .ok (.mod .g3 (.reg .g5)) ∧
      decode 0b01101_100_0010_0101#16 0#16 = .ok (.mull .g2 (.reg .g5)) ∧
      decode 0b01110_010_0100_0000#16 0x000A#16 = .ok (.divl .g4 (.imm 10#16)) ∧
      decode 0b10000_101_0111_0011#16 0#16 = .ok (.shla .g7 (.imm4 3#4)) ∧
      decode 0b10001_101_0111_0011#16 0#16 = .ok (.shll .g7 (.imm4 3#4)) ∧
      decode 0b10010_101_0111_0011#16 0#16 = .ok (.shra .g7 (.imm4 3#4)) ∧
      decode 0b10011_101_0111_0011#16 0#16 = .ok (.shrl .g7 (.imm4 3#4)) := by decide

/-- The fifteen jumps: row 10100, the condition in Rd. -/
theorem test_decode_jumps :
    decode 0b10100_000_0000_0000#16 0x0100#16 = .ok (.jz (.direct 0x0100#16)) ∧
      decode 0b10100_001_0001_0011#16 0x0100#16 = .ok (.jc (.indexed 0x0100#16 .g3)) ∧
      decode 0b10100_110_0010_0100#16 0#16 = .ok (.jm (.indirect .g4)) ∧
      decode 0b10100_000_0011_0000#16 0x0100#16 = .ok (.jo (.direct 0x0100#16)) ∧
      decode 0b10100_000_0100_0000#16 0x0100#16 = .ok (.jgt (.direct 0x0100#16)) ∧
      decode 0b10100_000_0101_0000#16 0x0100#16 = .ok (.jge (.direct 0x0100#16)) ∧
      decode 0b10100_000_0110_0000#16 0x0100#16 = .ok (.jle (.direct 0x0100#16)) ∧
      decode 0b10100_001_0111_0011#16 0x0100#16 = .ok (.jlt (.indexed 0x0100#16 .g3)) ∧
      decode 0b10100_000_1000_0000#16 0x0100#16 = .ok (.jnz (.direct 0x0100#16)) ∧
      decode 0b10100_000_1001_0000#16 0x0100#16 = .ok (.jnc (.direct 0x0100#16)) ∧
      decode 0b10100_000_1010_0000#16 0x0100#16 = .ok (.jnm (.direct 0x0100#16)) ∧
      decode 0b10100_000_1011_0000#16 0x0100#16 = .ok (.jno (.direct 0x0100#16)) ∧
      decode 0b10100_000_1100_0000#16 0x0100#16 = .ok (.jhi (.direct 0x0100#16)) ∧
      decode 0b10100_000_1110_0000#16 0x0100#16 = .ok (.jls (.direct 0x0100#16)) ∧
      decode 0b10100_110_1111_0100#16 0#16 = .ok (.jmp (.indirect .g4)) := by decide

/-- CALL, IN, OUT, and the instructions without an effective address. -/
theorem test_decode_others :
    decode 0b10101_000_0000_0000#16 0x0200#16 = .ok (.call (.direct 0x0200#16)) ∧
      decode 0b10101_110_0000_0001#16 0#16 = .ok (.call (.indirect .g1)) ∧
      decode 0b10110_000_0000_0000#16 0x0008#16 = .ok (.inp .g0 (.direct 8#16)) ∧
      decode 0b10110_111_0000_0001#16 0#16 = .ok (.inp .g0 (.byteIndirect .g1)) ∧
      decode 0b10111_110_0010_0011#16 0#16 = .ok (.out .g2 (.indirect .g3)) ∧
      decode 0b11000_000_1011_0000#16 0#16 = .ok (.push .g11) ∧
      decode 0b11000_100_1100_0000#16 0#16 = .ok (.pop .fp) ∧
      decode 0b11010_000_0000_0000#16 0#16 = .ok .ret ∧
      decode 0b11010_100_0000_0000#16 0#16 = .ok .reti ∧
      decode 0b11100_000_0000_0000#16 0#16 = .ok .ei ∧
      decode 0b11100_100_0000_0000#16 0#16 = .ok .di ∧
      decode 0b11110_000_0000_0000#16 0#16 = .ok .svc ∧
      decode 0b11111_111_0000_0000#16 0#16 = .ok .halt := by decide

/-- The corner cases that 95_test_vectors 2.1 lists, each with its reason. -/
theorem test_decode_corner_cases :
    decode 0x1200#16 0#16 = .error .undefinedOpcode ∧ decode 0x1500#16 0#16 = .error .undefinedOpcode ∧
      decode 0x7800#16 0#16 = .error .undefinedOpcode ∧ decode 0xA200#16 0#16 = .error .undefinedOpcode ∧
      decode 0xC800#16 0#16 = .error .undefinedOpcode ∧ decode 0xFE00#16 0#16 = .error .undefinedOpcode ∧
      decode 0x0001#16 0#16 = .error .mustBeZero ∧ decode 0xD001#16 0#16 = .error .mustBeZero ∧
      decode 0xA8F0#16 0x0200#16 = .error .mustBeZero ∧ decode 0x0813#16 0x1234#16 = .error .mustBeZero ∧
      decode 0xA0D0#16 0x0100#16 = .error .blankCondition ∧ decode 0x6C35#16 0#16 = .error .registerPair ∧
      decode 0x0C1F#16 0#16 = .error .pcOperand ∧ decode 0xC0D0#16 0#16 = .error .stackPointerOperand := by decide

set_option maxRecDepth 20000 in
/-- 163 cells of the opcode map are defined (30_encoding R98). -/
theorem test_opcode_map_size :
    ((List.range 256).filter fun k => opDefined (BitVec.ofNat 5 (k / 8)) (BitVec.ofNat 3 k)).length = 163 := by decide

/-- The host's numbering: the second word is bits 31:16. -/
theorem test_decodeTableWord :
    decodeTableWord 32 0x12340810 = some (.ld .g1 (.loc (.direct 0x1234#16))) ∧
      decodeTableWord 16 0xFF00 = some .halt ∧ decodeTableWord 16 0x0810 = some (.ld .g1 (.loc (.direct 0#16))) ∧
      decodeTableWord 16 0x7800 = none := by decide

/-! ## One instruction: the tables of 95_test_vectors -/

theorem test_ld_word : after (exec (.ld .g0 (.loc (.direct 0x1000#16))) data) (fun t => t.regs.g0) = some 0x1234#16 := by
  decide
theorem test_ld_byte_lower :
    after (exec (.ld .g0 (.loc (.byteIndirect .g1))) (data.setPReg .g1 0x1001#16)) (fun t => t.regs.g0) =
      some 0x0034#16 := by decide
theorem test_ldFlag :
    after (exec (.ldFlag .g5) (base.setFlags ⟨true, true, false, false, false, false, true⟩)) (fun t => t.regs.g5) =
      some 0x00C1#16 := by decide
theorem test_st_word :
    after (exec (.st .g2 (.direct 0x1000#16)) (data.setPReg .g2 0xBEEF#16))
      (fun t => (t.byteAt 0x1000#16, t.byteAt 0x1001#16, t.byteAt 0x1002#16)) = some (0xBE#8, 0xEF#8, 0xA5#8) := by
  decide
theorem test_st_byte_upper :
    after (exec (.st .g2 (.byteIndirect .g1)) ((data.setPReg .g2 0xBEEF#16).setPReg .g1 0x1000#16))
      (fun t => (t.byteAt 0x1000#16, t.byteAt 0x1001#16)) = some (0xEF#8, 0x34#8) := by decide
theorem test_add_overflow :
    after (exec (.add .g0 (.reg .g1)) (regs3 0x8000#16 0x8000#16 0)) (fun t => (t.regs.g0, vcsz t)) =
      some (0x0000#16, true, true, false, true) := by decide
theorem test_add_itself :
    after (exec (.add .g0 (.reg .g0)) (regs3 0x7FFF#16 0 0)) (fun t => (t.regs.g0, vcsz t)) =
      some (0xFFFE#16, true, false, true, false) := by decide
theorem test_sub_borrow :
    after (exec (.sub .g0 (.imm4 0xF#4)) (regs3 0x7FFF#16 0 0)) (fun t => (t.regs.g0, vcsz t)) =
      some (0x8000#16, true, true, true, false) := by decide
theorem test_cmp_keeps_rd :
    after (exec (.cmp .g0 (.imm4 1#4)) (regs3 0x8000#16 0 0)) (fun t => (t.regs.g0, vcsz t)) =
      some (0x8000#16, true, false, false, false) := by decide
theorem test_and :
    after (exec (.and .g0 (.reg .g1)) (regs3 0xF0F0#16 0x0FF0#16 0)) (fun t => (t.regs.g0, sz t)) =
      some (0x00F0#16, false, false) := by decide
theorem test_or :
    after (exec (.or .g0 (.reg .g1)) (regs3 0xF0F0#16 0x0FF0#16 0)) (fun t => (t.regs.g0, sz t)) =
      some (0xFFF0#16, true, false) := by decide
theorem test_xor :
    after (exec (.xor .g0 (.imm4 0xF#4)) (regs3 0x1234#16 0 0)) (fun t => (t.regs.g0, sz t)) =
      some (0xEDCB#16, true, false) := by decide
theorem test_adds :
    after (exec (.adds .g0 (.reg .g1)) (regs3 0x0100#16 0xFFFF#16 0)) (fun t => (t.regs.g0, sz t)) =
      some (0x00FE#16, false, false) := by decide
theorem test_mul :
    after (exec (.mul .g0 (.reg .g1)) (regs3 0x1234#16 0x5678#16 0)) (fun t => t.regs.g0) = some 0x0060#16 := by decide
theorem test_div :
    after (exec (.div .g0 (.imm4 7#4)) (regs3 0x0064#16 0 0)) (fun t => t.regs.g0) = some 0x000E#16 := by decide
theorem test_mod :
    after (exec (.mod .g0 (.imm4 7#4)) (regs3 0x0064#16 0 0)) (fun t => t.regs.g0) = some 0x0002#16 := by decide
theorem test_mull :
    after (exec (.mull .g0 (.reg .g2)) (regs3 0x1234#16 0 0x5678#16)) (fun t => (t.regs.g1, t.regs.g0)) =
      some (0x0626#16, 0x0060#16) := by decide
theorem test_divl :
    after (exec (.divl .g0 (.imm4 3#4)) (regs3 0x0000#16 0x0001#16 0)) (fun t => (t.regs.g0, t.regs.g1)) =
      some (0x5555#16, 0x0001#16) := by decide
theorem test_shla :
    after (exec (.shla .g0 (.imm 15#16)) (regs3 0x7FFF#16 0 0)) (fun t => (t.regs.g0, sz t)) =
      some (0x8000#16, true, false) := by decide
theorem test_shll :
    after (exec (.shll .g0 (.imm4 1#4)) (regs3 0x8000#16 0 0)) (fun t => (t.regs.g0, sz t)) =
      some (0x0000#16, false, true) := by decide
theorem test_shra :
    after (exec (.shra .g0 (.imm 15#16)) (regs3 0x8000#16 0 0)) (fun t => (t.regs.g0, sz t)) =
      some (0xFFFF#16, true, false) := by decide
theorem test_shrl :
    after (exec (.shrl .g0 (.imm4 4#4)) (regs3 0xFFF0#16 0 0)) (fun t => (t.regs.g0, sz t)) =
      some (0x0FFF#16, false, false) := by decide

/-- The jumps that 95_test_vectors 2.3 row 5 says are taken (V = 1, C = S = Z = 0). -/
theorem test_jumps_row5 :
    let s := base.setCond ⟨true, false, false, false⟩
    let taken := fun i => after (exec i s) (fun t => t.pc == 0x0200#16)
    let d : Target := .direct 0x0200#16
    [taken (.jz d), taken (.jc d), taken (.jm d), taken (.jo d), taken (.jgt d), taken (.jge d), taken (.jle d),
        taken (.jlt d), taken (.jnz d), taken (.jnc d), taken (.jnm d), taken (.jno d), taken (.jhi d), taken (.jls d),
        taken (.jmp d)] =
      [some false, some false, some false, some true, some false, some false, some true, some true, some true,
        some true, some true, some false, some true, some false, some true] := by decide

theorem test_jump_not_taken :
    after (exec (.jnz (.indirect .g1)) ((regs3 0 0x0300#16 0).setCond ⟨false, false, false, true⟩)) (fun t => t.pc) =
      some 0x0102#16 := by decide
theorem test_call :
    after (exec (.call (.direct 0x0200#16)) (base.setPReg .ssp 0x0400#16))
      (fun t => (t.pc, t.regs.ssp, t.wordAt 0x03FE#16)) = some (0x0200#16, 0x03FE#16, 0x0104#16) := by decide
theorem test_push :
    after (exec (.push .g3) (((base.setPReg .ssp 0x0200#16)).setPReg .g3 0x1234#16))
      (fun t => (t.regs.ssp, t.byteAt 0x01FE#16, t.byteAt 0x01FF#16)) = some (0x01FE#16, 0x12#8, 0x34#8) := by decide
theorem test_pop_usp :
    after (exec (.pop .usp) ((base.setPReg .ssp 0x01FE#16).setWord 0x01FE#16 0x1234#16))
      (fun t => (t.regs.usp, t.regs.ssp)) = some (0x1234#16, 0x0200#16) := by decide
theorem test_ret :
    after (exec .ret ((base.setPReg .ssp 0x01FC#16).setWord 0x01FC#16 0x000C#16)) (fun t => (t.pc, t.regs.ssp)) =
      some (0x000C#16, 0x01FE#16) := by decide
theorem test_reti_drops_fixed_bits :
    after (exec .reti (((base.setPReg .ssp 0x02FC#16).setWord 0x02FC#16 0xFFFF#16).setWord 0x02FE#16 0x0100#16))
      (fun t => (t.flag.toWord, t.pc, t.regs.ssp)) = some (0x00EF#16, 0x0100#16, 0x0300#16) := by decide
theorem test_ei :
    after (exec .ei (base.setFlags (Flags.ofWord 0x0045#16))) (fun t => t.flag.toWord) = some 0x00C5#16 := by decide
theorem test_di :
    after (exec .di (base.setFlags (Flags.ofWord 0x00C5#16))) (fun t => t.flag.toWord) = some 0x0045#16 := by decide

/-- SVC at 0044h in user mode (95_test_vectors 2.11). -/
theorem test_svc_from_user_mode :
    after (exec .svc (((base.setFlags (Flags.ofWord 0x0003#16)).setPc 0x0044#16).setPReg .usp 0x027E#16))
      (fun t => (t.wordAt 0x02FE#16, t.wordAt 0x02FC#16, t.regs.ssp, t.regs.usp, t.flag.toWord, t.pc)) =
      some (0x0046#16, 0x0003#16, 0x02FC#16, 0x027E#16, 0x0043#16, 0x0400#16) := by decide
theorem test_halt :
    after (exec .halt (base.setPc 0x000E#16)) (fun t => (t.halted, t.pc)) = some (true, 0x0010#16) := by decide
theorem test_in_mode_register :
    after (exec (.inp .g0 (.direct 0x001E#16)) base) (fun t => t.regs.g0) = some 0x0001#16 := by decide
theorem test_in_rn4020_cmd :
    after (exec (.inp .g0 (.byteIndirect .g1)) (base.setPReg .g1 0x002D#16)) (fun t => t.regs.g0) = some 0x0001#16 := by
  decide
theorem test_out_mmu_base :
    after (exec (.out .g0 (.direct 0x00F4#16)) (base.setPReg .g0 0x2000#16)) (fun t => (t.mmuBase, t.ioLog)) =
      some (0x2000#16, [⟨0xF4#8, false, 0x2000#16⟩]) := by decide
/-- SVC with an odd SSP: its trap entry cannot push (60_exceptions R213). -/
theorem test_svc_odd_ssp_refused :
    refusal (exec .svc (base.setPReg .ssp 0x0301#16)) = some .trapEntryFault := by decide
theorem test_mull_odd_refused : refusal (exec (.mull .g1 (.imm4 0#4)) base) = some .registerPair := by decide

/-- Bit I of a timer is bit 15 of its control word; 0080h enables nothing (60_exceptions R223). -/
theorem test_timer_enable :
    timerEnabled 0x8000#16 = true ∧ timerEnabled 0x8001#16 = true ∧ timerEnabled 0x0080#16 = false ∧
      timerEnabled 0x0001#16 = false := by decide

/-- Trap entry for the Timer0 interrupt of 95_test_vectors 2.11. -/
theorem test_interrupt_entry :
    after (((base.setFlags (Flags.ofWord 0x00C4#16)).setPc 0x0124#16).trapEntry 0#4 0x0124#16)
      (fun t => (t.wordAt 0x02FE#16, t.wordAt 0x02FC#16, t.regs.ssp, t.flag.toWord, t.pc)) =
      some (0x0124#16, 0x00C4#16, 0x02FC#16, 0x0044#16, 0x0400#16) := by decide

/-- A fault of the fetch of the second word of LD G1: trap entry, with FLAG and the other registers as they were. -/
theorem test_second_word_fault :
    after (base.fetchFaultSecond 0x0810#16 .memProtViolation)
      (fun t => (t.wordAt 0x02FC#16, t.regs.ssp, t.flag.toWord, t.pc, t.regs.g0)) =
      some (0x0040#16, 0x02FC#16, 0x0040#16, 0x0400#16, 0#16) := by decide

/-! ## Witnesses: for each statement with hypotheses, a state and operands that meet them -/

/-- `base` with an instruction's words at PC. -/
def withWords (s : State) (w1 w2 : Word) : State := (s.setWord s.pc w1).setWord (s.pc + 2#16) w2

theorem test_witness_DecodeEncodeRoundTrip :
    (Instr.mull .g10 (.loc (.indexed 0xFFFF#16 .usp))).wf = true ∧ (Instr.push .usp).wf = true := by decide

theorem test_witness_DecodedBytesAreTheEncoding :
    decodeBytes [0x08#8, 0x10#8, 0x12#8, 0x34#8, 0xFF#8] =
        .ok (.ld .g1 (.loc (.direct 0x1234#16)), [0xFF#8]) ∧
      decodeBytes [0x0D#8, 0x1F#8] = .ok (.ld .g1 (.imm4 0xF#4), []) := by decide

/-- A word of a defined opcode that the spec refuses. -/
def RefusedCell (w : Word) : Prop := hiByte w ∉ blankOpcodes ∧ RefusedWord w

/-- Two words for every alternative, and a state at which the step fetches one of them. -/
theorem test_witness_RefusedEncodingsStop :
    (RefusedCell 0x0801#16 ∧ RefusedCell 0x9A1F#16 ∧ RefusedCell 0x1401#16 ∧ RefusedCell 0xC4CF#16 ∧
        RefusedCell 0x0001#16 ∧ RefusedCell 0xFFFF#16 ∧ RefusedCell 0xA810#16 ∧ RefusedCell 0xAEF3#16 ∧
        RefusedCell 0xA0D0#16 ∧ RefusedCell 0xA6D3#16 ∧ RefusedCell 0x08F0#16 ∧ RefusedCell 0xC4F0#16 ∧
        RefusedCell 0x091F#16 ∧ RefusedCell 0xB70F#16 ∧ RefusedCell 0x6810#16 ∧ RefusedCell 0x77E0#16 ∧
        RefusedCell 0xC0D0#16 ∧ RefusedCell 0xC4D0#16) ∧
      (let s := withWords base 0xA0D0#16 0x0200#16
       Undisturbed s ∧ s.loadWord .fetch s.pc = .ok 0xA0D0#16) := by
  refine ⟨?_, ⟨rfl, .inl rfl⟩, by decide⟩
  repeat' apply And.intro
  all_goals first | decide | (unfold RefusedWord; decide)

/-- An instruction of two words that goes on, and one of one word that is refused. -/
theorem test_witness_StepRunsDecodedInstruction :
    (let s := withWords base 0x0A10#16 0x1234#16
     Undisturbed s ∧ s.loadWord .fetch s.pc = .ok 0x0A10#16 ∧ s.loadWord .fetch (s.pc + 2#16) = .ok 0x1234#16 ∧
       decode 0x0A10#16 0x1234#16 = .ok (.ld .g1 (.imm 0x1234#16)) ∧
       ∃ t, exec (.ld .g1 (.imm 0x1234#16)) s = .next t) ∧
      (let s := withWords user 0xC0E0#16 0x0000#16
       Undisturbed s ∧ s.loadWord .fetch s.pc = .ok 0xC0E0#16 ∧ hasSecondWord (Fields.ofWord 0xC0E0#16) = false ∧
         decode 0xC0E0#16 0#16 = .ok (.push .usp) ∧ exec (.push .usp) s = .refused .stackPointerOperand) :=
  ⟨⟨⟨rfl, .inl rfl⟩, by decide, by decide, by decide, _, rfl⟩,
    ⟨rfl, .inl rfl⟩, by decide, by decide, by decide, rfl⟩

/-- No transfer in flight, and a WRITE in flight: the premise of the memory clause. -/
theorem test_witness_BoundaryOnlyDevices :
    (∀ x, base.usd = some x → x.toMemory = false) ∧
      (∀ x, ({ base with usd := some ⟨false, 0#16, 0#32⟩ } : State).usd = some x → x.toMemory = false) :=
  ⟨fun _ h => (nomatch h), fun x h => by cases h; rfl⟩

/-- The first and the last source pending. -/
theorem test_witness_InterruptIsAccepted :
    let s := (base.setFlags (Flags.ofWord 0x00C4#16)).setPending 0b1000000001#10
    s.halted = false ∧ s.flag.e = true ∧ s.pending ≠ 0#10 ∧
      ∀ n, n < 10 → s.pending.getLsbD n = true → TrapReady s (BitVec.ofNat 4 n) s.pc := by
  refine ⟨rfl, rfl, by decide, fun n h1 _ => ready rfl rfl ?_ _⟩
  revert n; decide

theorem test_witness_UndefinedOpcodeTraps :
    let s := withWords base 0x7800#16 0#16
    Undisturbed s ∧ s.loadWord .fetch s.pc = .ok 0x7800#16 ∧ hiByte 0x7800#16 ∈ blankOpcodes ∧
      ∀ spc, SavedPc s 4#16 spc → TrapReady s 14#4 spc :=
  ⟨⟨rfl, .inl rfl⟩, by decide, by decide, fun _ _ => ready rfl rfl (by decide) _⟩

theorem test_witness_OddPcRaisesInvalidAddress :
    let s := base.setPc 0xFFFF#16
    Undisturbed s ∧ isOdd s.pc = true ∧ ∀ spc, SavedPc s 4#16 spc → TrapReady s 10#4 spc :=
  ⟨⟨rfl, .inl rfl⟩, by decide, fun _ _ => ready rfl rfl (by decide) _⟩

/-- The last even and the last odd address, with the MMU off; and an LD that goes on. -/
theorem test_witness_MemoryAccess :
    base.mmuEn = false ∧ (0xFFFE#16 : Word).toNat % 2 = 0 ∧ (0xFFFF#16 : Word).toNat % 2 = 1 ∧
      base.check .read false 0xFFFE#16 = .ok 0xFFFE#16 ∧
      ∃ t, exec (.ld .g0 (.loc (.direct 0x1000#16))) data = .next t :=
  ⟨rfl, by decide, by decide, by decide, _, rfl⟩

/-- A word at an even address, a word at an odd one, a byte below 80h and one at 80h. -/
theorem test_witness_OperandValues :
    data.mmuEn = false ∧
      (isByteLoc (.direct 0xFFFE#16) = false ∧ isOdd (data.effAddr (.direct 0xFFFE#16)) = false) ∧
      (isByteLoc (.direct 0xFFFF#16) = false ∧ isOdd (data.effAddr (.direct 0xFFFF#16)) = true) ∧
      (isByteLoc (.byteIndirect .g1) = true ∧
        (data.setPReg .g1 0x1001#16).byteAt ((data.setPReg .g1 0x1001#16).effAddr (.byteIndirect .g1)) = 0x34#8 ∧
        128 ≤ (data.byteAt 0x1002#16).toNat) := by decide

theorem test_witness_LdLoadsOperand :
    data.operand (.loc (.direct 0x1000#16)) = .ok 0x1234#16 ∧ data.operand (.imm4 8#4) = .ok 0xFFF8#16 := by decide

/-- An operand at the last odd address, also through a register of the last pair; SP odd, in both modes. -/
theorem test_witness_OddLoadTraps :
    (base.mmuEn = false ∧ isByteLoc (.direct 0xFFFF#16) = false ∧ isOdd (base.effAddr (.direct 0xFFFF#16)) = true ∧
        (Reg.g10, Reg.g11) ∈ registerPairs ∧ ∀ v spc, TrapReady (base.setReg .g0 v) 10#4 spc) ∧
      (let s := base.setPReg .ssp 0x0301#16
       s.mmuEn = false ∧ isOdd (s.reg .sp) = true ∧ ¬ IsStackPointer s .usp) ∧
      (let s := user.setPReg .usp 0x0281#16
       s.mmuEn = false ∧ isOdd (s.reg .sp) = true ∧ ¬ IsStackPointer s .g0 ∧
         ∀ v u spc, TrapReady ((s.setReg .sp v).setReg .g0 u) 10#4 spc) := by
  refine ⟨⟨rfl, rfl, by decide, by decide, fun _ _ => ready rfl rfl (by rw [State.wordAt_setReg]; decide) _⟩,
    ⟨rfl, by decide, ?_⟩, rfl, by decide, ?_,
    fun _ _ _ => ready rfl rfl (by rw [State.wordAt_setReg, State.wordAt_setReg]; decide) _⟩ <;>
    simp [IsStackPointer, base, user, State.reset, Flags.reset, State.setPReg, State.setPc, State.setMem, State.setFlags]

/-- A byte at the last writable address below the ROM, and the word there. -/
theorem test_witness_StStoresRegister :
    (let s := base.setPReg .g1 0xEFFF#16
     s.check .write (isByteLoc (.byteIndirect .g1)) (s.effAddr (.byteIndirect .g1)) = .ok 0xEFFF#16 ∧
       writable 0xEFFF#16 = true) ∧
      (base.check .write (isByteLoc (.direct 0xEFFE#16)) (base.effAddr (.direct 0xEFFE#16)) = .ok 0xEFFE#16 ∧
        writable 0xEFFE#16 = true ∧ writable (0xEFFE#16 + 1#16) = true) := by decide

/-- ST at an odd address, in a state from which its trap entry completes; PUSH and CALL with SP odd, in both modes. -/
theorem test_witness_OddStoreTraps :
    (base.mmuEn = false ∧ isByteLoc (.direct 0x1001#16) = false ∧ isOdd (base.effAddr (.direct 0x1001#16)) = true ∧
        ∀ m spc,
          MemSameBut base (base.setMem m) [base.effAddr (.direct 0x1001#16) - 1#16, base.effAddr (.direct 0x1001#16),
            base.effAddr (.direct 0x1001#16) + 1#16, base.effAddr (.direct 0x1001#16) + 2#16] →
          TrapReady (base.setMem m) 10#4 spc) ∧
      (let s := base.setPReg .ssp 0x0301#16
       s.mmuEn = false ∧ isOdd (s.reg .sp) = true ∧ ¬ IsStackPointer s .usp) ∧
      (let s := user.setPReg .usp 0x0001#16
       s.mmuEn = false ∧ isOdd (s.reg .sp) = true ∧ ¬ IsStackPointer s .g0) := by
  refine ⟨⟨rfl, rfl, by decide, fun m spc h => ready rfl rfl ?_ _⟩, ⟨rfl, by decide, ?_⟩, rfl, by decide, ?_⟩
  · have h1 := h (vectorAddr 10#4) (by decide)
    have h2 := h (vectorAddr 10#4 + 1#16) (by decide)
    rw [State.wordAt, h1, h2]
    decide
  all_goals
    simp [IsStackPointer, base, user, State.reset, Flags.reset, State.setPReg, State.setPc, State.setMem, State.setFlags]

theorem test_witness_AddSumAndFlags : (regs3 0xFFFF#16 1#16 0).operand (.reg .g1) = .ok 1#16 := by decide
theorem test_witness_SubDifferenceAndFlags : (regs3 0x8000#16 1#16 0).operand (.reg .g1) = .ok 1#16 := by decide
theorem test_witness_CmpFlags : (regs3 0#16 0x8000#16 0).operand (.reg .g1) = .ok 0x8000#16 := by decide

theorem test_witness_CompareThenJump :
    let s := regs3 0x7FFF#16 0xFFFF#16 0
    s.operand (.reg .g1) = .ok 0xFFFF#16 ∧ (∃ t, exec (.cmp .g0 (.reg .g1)) s = .next t) ∧
      ∃ t, exec (.sub .g0 (.reg .g1)) s = .next t :=
  ⟨by decide, ⟨_, rfl⟩, _, rfl⟩

theorem test_witness_LogicOperations : data.operand (.loc (.direct 0x1002#16)) = .ok 0xA500#16 := by decide
theorem test_witness_AddsScalesOperand : base.operand (.imm 0x8000#16) = .ok 0x8000#16 := by decide
theorem test_witness_MulLowWord : base.operand (.imm 0xFFFF#16) = .ok 0xFFFF#16 := by decide

/-- Both operands 7FFFh; the divisor 1; the dividend 0. -/
theorem test_witness_DivModQuotientRemainder :
    (let s := regs3 0x7FFF#16 0x7FFF#16 0
     s.operand (.reg .g1) = .ok 0x7FFF#16 ∧ (0x7FFF#16 : Word) ≠ 0#16 ∧ (s.reg .g0).toNat < 0x8000 ∧
       (0x7FFF#16 : Word).toNat < 0x8000) ∧
      (base.operand (.imm4 1#4) = .ok 1#16 ∧ (1#16 : Word) ≠ 0#16) ∧
      (base.operand (.imm4 8#4) = .ok 0xFFF8#16 ∧ (0xFFF8#16 : Word) ≠ 0#16 ∧ base.reg .g0 = 0#16) := by decide

/-- Rd = G0, from where trap entry completes, and Rd = SP. -/
theorem test_witness_ZeroDivideTraps :
    base.operand (.imm4 0#4) = .ok 0#16 ∧ base.mmuEn = false ∧
      (∀ v c spc, TrapReady ((base.setReg .g0 v).setCond c) 12#4 spc) ∧
      TrapReady ((base.setReg .sp 0x0300#16).setCond ⟨false, false, false, false⟩) 12#4 0x0100#16 :=
  ⟨by decide, rfl, fun _ _ _ => ready rfl rfl (by rw [State.wordAt_setCond, State.wordAt_setReg]; decide) _,
    ready rfl rfl (by decide) _⟩

theorem test_witness_MullProduct :
    let s := regs3 0x7FFF#16 0 0x7FFF#16
    (Reg.g0, Reg.g1) ∈ registerPairs ∧ s.operand (.reg .g2) = .ok 0x7FFF#16 ∧ (s.reg .g0).toNat < 0x8000 ∧
      (0x7FFF#16 : Word).toNat < 0x8000 := by decide

/-- The largest fixed quotient, 7FFFh; and the divisor 0. -/
theorem test_witness_DivlQuotientRemainder :
    (let s := regs3 0x0001#16 0x3FFF#16 0x7FFF#16
     (Reg.g0, Reg.g1) ∈ registerPairs ∧ s.operand (.reg .g2) = .ok 0x7FFF#16 ∧ (0x7FFF#16 : Word) ≠ 0#16 ∧
       (s.reg .g1).toNat * 65536 + (s.reg .g0).toNat < 0x80000000 ∧ (0x7FFF#16 : Word).toNat < 0x8000 ∧
       ((s.reg .g1).toNat * 65536 + (s.reg .g0).toNat) / (0x7FFF#16 : Word).toNat ≤ 0x7FFF) ∧
      (Reg.g10, Reg.g11) ∈ registerPairs ∧ base.operand (.imm4 0#4) = .ok 0#16 ∧
      ∀ v u c spc, SavedPc base (srcLen (.imm4 0#4)) spc →
        TrapReady (((base.setReg .g10 v).setReg .g11 u).setCond c) 12#4 spc :=
  ⟨by decide, by decide, by decide, fun _ _ _ _ _ =>
    ready rfl rfl (by rw [State.wordAt_setCond, State.wordAt_setReg, State.wordAt_setReg]; decide) _⟩

theorem test_witness_MullThenDivl :
    (Reg.g0, Reg.g1) ∈ registerPairs ∧ ((regs3 0x7FFF#16 0 0).reg .g0).toNat < 0x8000 ∧
      1 ≤ (0x7FFF#16 : Word).toNat ∧ (0x7FFF#16 : Word).toNat < 0x8000 := by decide

/-- An odd register and FP; SP in privileged mode and USP in user mode; the first address above the I/O space and the last
odd one in it; the first word and the last byte of the ROM, and the push at its
lower end; an odd SSP, with the MMU off and on. -/
theorem test_witness_RefusedForms :
    ((∀ hi, (Reg.g1, hi) ∉ registerPairs) ∧ ∀ hi, (Reg.fp, hi) ∉ registerPairs) ∧
      (IsStackPointer base .sp ∧ IsStackPointer user .usp) ∧
      (base.flag.p = true ∧ 0xFF < (base.portAddr (.direct 0x0100#16)).toNat ∧
        portByte (.direct 0x00FF#16) = false ∧ (base.portAddr (.direct 0x00FF#16)).toNat % 2 = 1) ∧
      (base.check .write (isByteLoc (.direct 0xF000#16)) (base.effAddr (.direct 0xF000#16)) = .ok 0xF000#16 ∧
        let s := base.setPReg .g1 0xFFDF#16
        s.check .write (isByteLoc (.byteIndirect .g1)) (s.effAddr (.byteIndirect .g1)) = .ok 0xFFDF#16) ∧
      (let s := base.setPReg .ssp 0xF002#16
       s.check .write false (s.reg .sp - 2#16) = .ok 0xF000#16 ∧ ¬ IsStackPointer s .usp) ∧
      (let s := base.setPReg .ssp 0x0301#16
       s.mmuEn = false ∧ isOdd s.regs.ssp = true ∧ ∀ n spc, ¬ TrapReady s n spc) ∧
      (let s := (base.setPReg .ssp 0x0301#16).setMmu true 0#16 0#16
       ∃ x, (s.setFlags s.flag.trapped).check .trapPush false (s.regs.ssp - 2#16) = .error x) := by
  refine ⟨⟨fun hi => by cases hi <;> decide, fun hi => by cases hi <;> decide⟩, ⟨.inl rfl, .inr ⟨rfl, rfl⟩⟩,
    by decide, by decide, ⟨by decide, ?_⟩, ⟨rfl, by decide, fun n spc h => absurd h.2.1 (by decide)⟩, ?_⟩
  · simp [IsStackPointer, base, State.reset, Flags.reset, State.setPReg, State.setPc, State.setMem]
  · intro s
    rw [State.check, if_pos (by decide)]
    split <;> exact ⟨_, rfl⟩

/-- Counts 1 and 15 for the flag clause, 0 for the result clause alone. -/
theorem test_witness_ShiftLeft :
    base.operand (.imm4 1#4) = .ok 1#16 ∧ base.operand (.imm 15#16) = .ok 15#16 ∧ base.operand (.imm4 0#4) = .ok 0#16 ∧
      1 ≤ (1#16 : Word).toNat ∧ (15#16 : Word).toNat ≤ 15 ∧ (0#16 : Word).toNat ≤ 15 := by decide

theorem test_witness_ShiftRight :
    base.operand (.reg .fp) = .ok 0#16 ∧ (regs3 0 15#16 0).operand (.reg .g1) = .ok 15#16 ∧
      1 ≤ (15#16 : Word).toNat ∧ (15#16 : Word).toNat ≤ 15 ∧ (0#16 : Word).toNat ≤ 15 := by decide

/-- The stack just below the ROM. -/
theorem test_witness_CallPushesReturnAddress :
    let s := base.setPReg .ssp 0xF000#16
    s.check .write false (s.reg .sp - 2#16) = .ok 0xEFFE#16 ∧ writable 0xEFFE#16 = true ∧
      writable (0xEFFE#16 + 1#16) = true := by decide

theorem test_witness_CallThenRet :
    user.mmuEn = false ∧ isOdd (user.reg .sp) = false ∧ writable (user.reg .sp - 2#16) = true := by decide

/-- USP pushed on the system stack, the word just below the ROM, and SP = 0002h: the lowest word. -/
theorem test_witness_PushStoresRegister :
    (¬ IsStackPointer base .usp ∧ base.check .write false (base.reg .sp - 2#16) = .ok 0x02FE#16 ∧
        writable 0x02FE#16 = true ∧ writable (0x02FE#16 + 1#16) = true) ∧
      (let s := base.setPReg .ssp 0xF000#16
       ¬ IsStackPointer s .g0 ∧ s.check .write false (s.reg .sp - 2#16) = .ok 0xEFFE#16 ∧
         writable 0xEFFE#16 = true ∧ writable (0xEFFE#16 + 1#16) = true) ∧
      (let s := base.setPReg .ssp 0x0002#16
       ¬ IsStackPointer s .g0 ∧ s.check .write false (s.reg .sp - 2#16) = .ok 0x0000#16 ∧
         writable 0x0000#16 = true ∧ writable (0x0000#16 + 1#16) = true) := by
  refine ⟨⟨?_, by decide⟩, ⟨?_, by decide⟩, ?_, by decide⟩ <;> simp [IsStackPointer, base, State.reset, Flags.reset]

theorem test_witness_PopLoadsRegister :
    ¬ IsStackPointer base .usp ∧
      (base.setWord 0x0300#16 0x1234#16).loadWord .read (base.reg .sp) = .ok 0x1234#16 := by
  refine ⟨?_, by decide⟩
  simp [IsStackPointer, base, State.reset, Flags.reset]

theorem test_witness_PushThenPop :
    ¬ IsStackPointer user .g0 ∧ ¬ IsStackPointer user .fp ∧ user.mmuEn = false ∧ isOdd (user.reg .sp) = false ∧
      writable (user.reg .sp - 2#16) = true := by
  refine ⟨?_, ?_, by decide⟩ <;> simp [IsStackPointer]

theorem test_witness_RetPopsPc :
    (base.setWord 0x0300#16 0x1235#16).loadWord .read (base.reg .sp) = .ok 0x1235#16 := by decide

theorem test_witness_RetiRestoresPsw :
    let s := (base.setWord 0x0300#16 0x0080#16).setWord 0x0302#16 0x000E#16
    s.flag.p = true ∧ s.loadWord .read s.regs.ssp = .ok 0x0080#16 ∧
      s.loadWord .read (s.regs.ssp + 2#16) = .ok 0x000E#16 := by decide

theorem test_witness_RetiInUserMode :
    let s := (user.setWord 0x0280#16 0x00FF#16).setWord 0x0282#16 0x000E#16
    s.flag.p = false ∧ s.loadWord .read s.regs.usp = .ok 0x00FF#16 ∧
      s.loadWord .read (s.regs.usp + 2#16) = .ok 0x000E#16 ∧
      ∀ spc, SavedPc s 2#16 spc → TrapReady s 13#4 spc :=
  ⟨rfl, by decide, by decide, fun _ _ => ready rfl rfl (by decide) _⟩

theorem test_witness_EiDiWriteE : base.flag.p = true := rfl
theorem test_witness_HaltStops : base.flag.p = true := rfl

theorem test_witness_PrivilegedInUserMode :
    user.flag.p = false ∧ ∀ spc, SavedPc user 2#16 spc → TrapReady user 13#4 spc :=
  ⟨rfl, fun _ _ => ready rfl rfl (by decide) _⟩

theorem test_witness_SvcEntersTrap : TrapReady user 15#4 (user.pc + 2#16) := ready rfl rfl (by decide) _
theorem test_witness_SvcThenReti : TrapReady base 15#4 (base.pc + 2#16) := ready rfl rfl (by decide) _

theorem test_witness_IoNeedsPrivilege :
    (∃ x i, (x = PrivOp.inp ∧ i = Instr.inp .g0 (.direct 0x001E#16)) ∨ (x = .out ∧ i = .out .g0 (.direct 0x001E#16))) ∧
      user.flag.p = false ∧ user.flag.i = false ∧
      ∀ spc, SavedPc user (portLen (.direct 0x001E#16)) spc → TrapReady user 13#4 spc :=
  ⟨⟨_, _, .inl ⟨rfl, rfl⟩⟩, rfl, rfl, fun _ _ => ready rfl rfl (by decide) _⟩

/-- A byte at the last address of the I/O space, and the last word of it; by P, and by I in user mode. -/
theorem test_witness_InReadsPort :
    (let s := base.setPReg .g1 0x00FF#16
     s.flag.p = true ∧ (s.portAddr (.byteIndirect .g1)).toNat ≤ 0xFF ∧ portByte (.byteIndirect .g1) = true) ∧
      (let s := user.setFlags { user.flag with i := true }
       s.flag.i = true ∧ (s.portAddr (.direct 0x00FE#16)).toNat ≤ 0xFF ∧ portByte (.direct 0x00FE#16) = false ∧
         (s.portAddr (.direct 0x00FE#16)).toNat % 2 = 0) := by decide

theorem test_witness_OutWritesPort :
    (let s := base.setPReg .g1 0x00FF#16
     s.flag.p = true ∧ (s.portAddr (.byteIndirect .g1)).toNat ≤ 0xFF ∧ portByte (.byteIndirect .g1) = true) ∧
      (base.flag.p = true ∧ (base.portAddr (.direct 0x00FE#16)).toNat ≤ 0xFF ∧
        portByte (.direct 0x00FE#16) = false ∧ (base.portAddr (.direct 0x00FE#16)).toNat % 2 = 0) := by decide

/-- Before the first OUT to RN4020-Cmd; the first and the last even address, and a row of the list. -/
theorem test_witness_PortReads :
    base.Inv ∧ base.out.rn4020CmdWritten = false ∧ (0x00#8 : Byte).toNat % 2 = 0 ∧ (0xFE#8 : Byte).toNat % 2 = 0 :=
  ⟨⟨by decide, fun _ => rfl⟩, rfl, by decide, by decide⟩

/-- Neither READ nor WRITE, and each of them; the first and the last free row. -/
theorem test_witness_PortWrites :
    ((0xFFFC#16 : Word).getLsbD 0 = false ∧ (0xFFFC#16 : Word).getLsbD 1 = false) ∧
      (0x0001#16 : Word).getLsbD 0 = true ∧ (0x0002#16 : Word).getLsbD 1 = true ∧
      (0x30 ≤ (0x30#8 : Byte).toNat ∧ (0x30#8 : Byte).toNat ≤ 0xEE) ∧
      (0x30 ≤ (0xEE#8 : Byte).toNat ∧ (0xEE#8 : Byte).toNat ≤ 0xEE) ∧ (0xEF#8 : Byte).toNat ≤ 0xEF := by decide

/-- The first and the last word with a zero upper byte that is not NO. -/
theorem test_witness_NoOnlyAdvances :
    hiByte 0x0001#16 = 0#8 ∧ loByte 0x0001#16 ≠ 0#8 ∧ hiByte 0x00FF#16 = 0#8 ∧ loByte 0x00FF#16 ≠ 0#8 := by decide

/-- A step that goes on from a state with the invariant. -/
theorem test_witness_StepKeepsInvariant :
    let s := withWords base 0x0000#16 0x0000#16
    s.Inv ∧ ∃ t, step s = .next t :=
  ⟨⟨by decide, fun _ => rfl⟩, _, rfl⟩

/-- A step that changes bytes: ST of G0 = 0000h over 1234h, at the word just below the ROM. -/
theorem test_witness_StepChangesOnlyWritable :
    let s := withWords (base.setWord 0xEFFE#16 0x1234#16) 0x1000#16 0xEFFE#16
    ∃ t, step s = .next t ∧ t.byteAt 0xEFFE#16 ≠ s.byteAt 0xEFFE#16 ∧ t.byteAt 0xEFFF#16 ≠ s.byteAt 0xEFFF#16 :=
  ⟨_, rfl, by decide, by decide⟩

/-- RETI to user mode with I set: `base` with the frame 0020h, 0400h. -/
def retiToUser : State :=
  ((withWords base 0xD400#16 0x0000#16).setWord 0x0300#16 0x0020#16).setWord 0x0302#16 0x0400#16

theorem test_witness_OnlyRetiLeavesPrivilegedMode :
    retiToUser.flag.p = true ∧ after (step retiToUser) (fun t => t.flag.p) = some false := by decide

theorem test_witness_UserModeKeepsSsp :
    user.flag.p = false ∧ after (step (withWords user 0x0DD1#16 0x0000#16)) (fun t => (t.flag.p, t.regs.usp)) =
      some (false, 1#16) := by decide

/-- RETI sets I and clears P, EI sets E, DI clears it, SVC in user mode clears E and sets P: the premises of the clauses. -/
theorem test_witness_ModeBitWriters :
    after (step retiToUser) (fun t => (t.flag.i, retiToUser.flag.i)) = some (true, false) ∧
      after (step (withWords base 0xE000#16 0#16)) (fun t => (base.flag.e, t.flag.e)) = some (false, true) ∧
      (let s := withWords (base.setFlags (Flags.ofWord 0x00C0#16)) 0xE400#16 0#16
       after (step s) (fun t => (s.flag.e, t.flag.e)) = some (true, false)) ∧
      (let s := withWords (user.setFlags (Flags.ofWord 0x0080#16)) 0xF000#16 0#16
       after (step s) (fun t => (s.flag.e, t.flag.e, s.flag.p, t.flag.p)) = some (true, false, false, true)) ∧
      after (step retiToUser) (fun t => (retiToUser.flag.p, t.flag.p)) = some (true, false) := by decide

end Sys2Proof.Tests
end

section
/-! PROOFS. Fetch gives the decoded instruction; the step at an undisturbed boundary, at an odd PC, and the reset state. -/

namespace Sys2Proof

/-! ## The second word is looked at only where there is one -/

section SecondWord

variable {m : BitVec 3} (hm : 2 < m.toNat) (rx : BitVec 4) (w w' : Word)
include hm

theorem decodeSrc_second : decodeSrc m rx w = decodeSrc m rx w' := by
  unfold decodeSrc
  split
  · omega
  · omega
  · omega
  all_goals rfl

theorem decodeLoc_second : decodeLoc m rx w = decodeLoc m rx w' := by
  unfold decodeLoc
  split
  · omega
  · omega
  all_goals rfl

theorem decodeTarget_second : decodeTarget m rx w = decodeTarget m rx w' := by
  unfold decodeTarget
  split
  · omega
  · omega
  all_goals rfl

theorem decodePort_second : decodePort m rx w = decodePort m rx w' := by
  unfold decodePort
  split
  · omega
  all_goals rfl

end SecondWord

/-- An instruction without a second word decodes alike whatever follows its first one (30_encoding R82). -/
theorem decode_second {w1 : Word} (h : hasSecondWord (Fields.ofWord w1) = false) (w w' : Word) :
    decode w1 w = decode w1 w' := by
  simp only [decode]
  generalize Fields.ofWord w1 = f at h ⊢
  cases he : hasEa f.op5 with
  | true =>
    have hm : 2 < f.mode.toNat := by simpa [hasSecondWord, he] using h
    simp only [decodeFields, decodeRdSrc, decodePairSrc, decodeRdLoc, decodeRdPort, decodeSrc_second hm f.rx w w',
      decodeLoc_second hm f.rx w w', decodeTarget_second hm f.rx w w', decodePort_second hm f.rx w w']
  | false =>
    have hop : (f.op5.toNat = 0 ∨ 14 < f.op5.toNat) ∧ (f.op5.toNat < 16 ∨ 23 < f.op5.toNat) := by
      simp only [hasEa, Bool.or_eq_false_iff, Bool.and_eq_false_iff, decide_eq_false_iff_not] at he
      omega
    simp only [decodeFields]
    split
    · split
      all_goals first
        | omega
        | rfl
    · rfl

namespace Machine

/-! ## Boundaries and fetch -/

/-- Fetch gives the instruction that the words at PC decode to. -/
theorem State.fetch_decoded {s : State} {i : Instr} {w1 w2 : Word} (h1 : s.loadWord .fetch s.pc = .ok w1)
    (h2 : hasSecondWord (Fields.ofWord w1) = true → s.loadWord .fetch (s.pc + 2#16) = .ok w2)
    (hd : decode w1 w2 = .ok i) : s.fetch = .instr i := by
  cases h0 : decode w1 0#16 with
  | error e => rw [decode_error_second h0 w2] at hd; cases hd
  | ok j =>
    cases hs : hasSecondWord (Fields.ofWord w1) with
    | true => simp [State.fetch, h1, h0, hs, h2 hs, hd, Fetched.ofDecode]
    | false =>
      rw [decode_second hs 0#16 w2, hd] at h0
      cases h0
      simp [State.fetch, h1, decode_second hs 0#16 w2, hd, hs]

/-- No device interrupt is accepted at an undisturbed boundary. -/
theorem Undisturbed.accepts_false {s : State} (h : Undisturbed s) : s.accepts = false := by
  obtain ⟨-, he | hp⟩ := h
  · simp [State.accepts, he]
  · simp [State.accepts, hp]

/-- The step of a fetched instruction. -/
theorem step_of_instr {s : State} {i : Instr} (hu : Undisturbed s) (hf : s.fetch = .instr i) :
    step s = atBoundary (exec i s) := by
  simp [step, hu.1, hu.accepts_false, hf]

/-- The step of a fetch whose first word raises an exception. -/
theorem step_of_raises {s : State} {x : Exc} (hu : Undisturbed s) (hf : s.fetch = .raises x) :
    step s = atBoundary (s.fetchFault x) := by
  simp [step, hu.1, hu.accepts_false, hf]

/-- A fetch at an odd PC with the MMU off. -/
theorem State.fetch_oddPc {s : State} (hm : s.mmuEn = false) (ho : isOdd s.pc = true) :
    s.fetch = .raises .invalidAddress := by
  have hw : s.loadWord .fetch s.pc = .error .invalidAddress := by
    simp [State.loadWord, State.check_mmuOff hm, ho, Except.map]
  simp [State.fetch, hw]

/-- Settles O6: fetch gives the decoded instruction, and no interrupt comes before it. -/
theorem stepRunsDecodedInstruction : Obligations.StepRunsDecodedInstruction := by
  intro s i w1 w2 hu h1 h2 hd
  have hstep : step s = atBoundary (exec i s) := step_of_instr hu (State.fetch_decoded h1 h2 hd)
  exact ⟨fun t ht => by rw [hstep, ht]; rfl, fun r hr => by rw [hstep, hr]; rfl⟩

/-- Settles O10: the fetch raises InvalidAddress, and its trap entry is ready for whichever PC is saved. -/
theorem oddPcRaisesInvalidAddress : Obligations.OddPcRaisesInvalidAddress := by
  intro s hu ho hr
  have hm : s.mmuEn = false := (hr s.pc (.inl rfl)).1
  obtain ⟨spc, t, hspc, ht, htaken⟩ := State.takeFault_taken (x := .invalidAddress) hr
  refine ⟨spc, t, hspc, ?_, htaken⟩
  rw [step_of_raises hu (State.fetch_oddPc hm ho), State.fetchFault, ht]
  rfl

/-- Settles O12: memory is empty and RN4020-Cmd at its initial value. -/
theorem resetSatisfiesInvariant : Obligations.ResetSatisfiesInvariant :=
  ⟨Memory.wf_nil, fun _ => rfl⟩

end Machine
end Sys2Proof
end

section
/-! PROOFS. The flags of a subtraction as relations between its operands, and the jumps on them. -/

namespace Sys2Proof.Machine

/-! ## Compare and jump -/

/-- Every jump sets PC alone (44_jump_call R160), to the target exactly where its condition holds. -/
theorem State.jumpIf_of_iff (s : State) {taken : Bool} {P : Prop} [Decidable P] (h : taken = true ↔ P) (g : Target) :
    s.jumpIf taken g = .next (s.setPc (if P then s.targetAddr g else s.pc + targetLen g)) := by
  simp only [State.jumpIf, h]
  split <;> rfl

/-- C of a subtraction is the borrow (41_alu R132). -/
theorem subCond_c (a b : Word) : (subCond a b).c = true ↔ a.toNat < b.toNat := by
  simp [subCond, resultCond]

/-- Z of a subtraction says that its operands are equal. -/
theorem subCond_z (a b : Word) : (subCond a b).z = true ↔ a = b := by
  rw [subCond, resultCond_z]
  exact sub_eq_zero

/-- S and V of a subtraction differ where the first operand is less, read as signed numbers (10_state R35): operands of
one sign do not overflow and S decides, and of operands of two signs the negative one is less. -/
theorem subCond_s_ne_v (a b : Word) : (subCond a b).s ≠ (subCond a b).v ↔ a.toInt < b.toInt := by
  have ha := a.isLt
  have hb := b.isLt
  by_cases hsign : a.msb = b.msb
  · have hv : (subCond a b).v = false := by simp [subCond, resultCond, hsign]
    rw [hv, ne_eq, Bool.not_eq_false, subCond, resultCond_s]
    simp only [BitVec.msb_eq_decide, decide_eq_decide] at hsign
    simp only [BitVec.toInt_eq_toNat_cond, BitVec.toNat_sub]
    split <;> split <;> split <;> omega
  · have hv : (subCond a b).v = ((a - b).msb != a.msb) := by simp [subCond, resultCond, hsign]
    have hs : (subCond a b).s = (a - b).msb := rfl
    have hne : (a - b).msb ≠ ((a - b).msb != a.msb) ↔ a.msb = true := by
      cases (a - b).msb <;> cases a.msb <;> decide
    rw [hv, hs, hne]
    simp only [BitVec.msb_eq_decide, decide_eq_decide, decide_eq_true_eq, BitVec.toInt_eq_toNat_cond] at hsign ⊢
    split <;> split <;> omega

/-- CMP and SUB leave the same FLAG (41_alu R132, R133). -/
theorem flag_of_cmp_or_sub {s t : State} {rd : Reg} {src : Src} {b : Word} (hb : s.operand src = .ok b)
    (h : exec (.cmp rd src) s = .next t ∨ exec (.sub rd src) s = .next t) :
    t.flag = s.flag.withCond (subCond (s.reg rd) b) := by
  rcases h with h | h
  · simp only [exec, execCmp, hb] at h
    cases h
    rfl
  · simp only [exec, execSub, State.aluOp_ok _ _ hb] at h
    cases h
    rfl

/-- Settles O25: each jump condition of 44_jump_call R160 is put as a relation between Rd and the operand. -/
theorem compareThenJump : Obligations.CompareThenJump := by
  intro s t rd src b g hb h
  have hflag := flag_of_cmp_or_sub hb h
  generalize s.reg rd = a at hflag ⊢
  have hz : t.flag.z = true ↔ a = b := by rw [hflag]; exact subCond_z a b
  have hc : t.flag.c = true ↔ a.toNat < b.toNat := by rw [hflag]; exact subCond_c a b
  have hlt : t.flag.s ≠ t.flag.v ↔ a.toInt < b.toInt := by rw [hflag]; exact subCond_s_ne_v a b
  have hzi : a = b ↔ a.toInt = b.toInt := BitVec.toInt_inj.symm
  have hzn : a = b ↔ a.toNat = b.toNat := BitVec.toNat_inj.symm
  have condLt_iff : condLt t.flag = true ↔ a.toInt < b.toInt := by rw [← hlt]; simp [condLt]
  have condLe_iff : condLe t.flag = true ↔ a.toInt ≤ b.toInt := by
    rw [condLe, Bool.or_eq_true, hz, hzi, ← condLt, condLt_iff]; omega
  have condLs_iff : condLs t.flag = true ↔ a.toNat ≤ b.toNat := by
    rw [condLs, Bool.or_eq_true, hz, hzn, hc]; omega
  refine ⟨hz, hc, hlt, t.jumpIf_of_iff ?_ g, t.jumpIf_of_iff ?_ g, t.jumpIf_of_iff condLe_iff g,
    t.jumpIf_of_iff condLt_iff g, t.jumpIf_of_iff ?_ g, t.jumpIf_of_iff ?_ g, t.jumpIf_of_iff condLs_iff g,
    t.jumpIf_of_iff hc g, t.jumpIf_of_iff hz g, ?_⟩
  · rw [Bool.not_eq_true', ← Bool.not_eq_true, condLe_iff]; omega
  · rw [Bool.not_eq_true', ← Bool.not_eq_true, condLt_iff]; omega
  · rw [Bool.not_eq_true', ← Bool.not_eq_true, condLs_iff]; omega
  · rw [Bool.not_eq_true', ← Bool.not_eq_true, condC, hc]; omega
  · rw [← ite_not]
    refine t.jumpIf_of_iff ?_ g
    rw [Bool.not_eq_true', ← Bool.not_eq_true, condZ, hz]

end Sys2Proof.Machine
end

section
/-! PROOFS. What each instruction and each step can do, said once; the invariant and the mode bits follow from it. -/

namespace Sys2Proof.Machine

/-! ## Ordinary changes: what every instruction but EI, DI and RETI keeps, and every fault before its trap entry -/

/-- The change from `s` to `t` keeps the invariant, the mode bits (10_state R36), in user mode SSP (60_exceptions R215), and
every byte that is not Writable (20_memory R61). -/
structure Ordinary (s t : State) : Prop where
  inv : s.Inv → t.Inv
  mode : ModeSame s t
  ssp : s.flag.p = false → t.regs.ssp = s.regs.ssp
  readOnly : ∀ a, writable a = false → t.byteAt a = s.byteAt a

/-- An operand names no SSP in user mode (10_state R23, R24). -/
theorem bank_user_ne_ssp (r : Reg) : bank false r ≠ .ssp := by cases r <;> decide

namespace Ordinary

variable {s u v : State}

theorem refl (s : State) : Ordinary s s := ⟨id, ⟨rfl, rfl, rfl⟩, fun _ => rfl, fun _ _ => rfl⟩

theorem trans (h : Ordinary s u) (h' : Ordinary u v) : Ordinary s v where
  inv := h'.inv ∘ h.inv
  mode :=
    have ⟨e, p, i⟩ := h.mode
    have ⟨e', p', i'⟩ := h'.mode
    ⟨e'.trans e, p'.trans p, i'.trans i⟩
  ssp hp := (h'.ssp (h.mode.2.1.trans hp)).trans (h.ssp hp)
  readOnly a ha := (h'.readOnly a ha).trans (h.readOnly a ha)

/-- A change of neither FLAG nor registers, of memory only where it is Writable, of RN4020-Cmd only with a note. -/
theorem of_flag_regs (hf : u.flag = s.flag) (hr : u.regs = s.regs) (hi : s.Inv → u.Inv)
    (hm : ∀ a, writable a = false → u.byteAt a = s.byteAt a) : Ordinary s u :=
  ⟨hi, by rw [ModeSame, hf]; exact ⟨rfl, rfl, rfl⟩, fun _ => by rw [hr], hm⟩

/-- A change of neither FLAG, registers, memory nor output ports. -/
theorem of_same (hf : u.flag = s.flag) (hr : u.regs = s.regs) (hm : u.mem = s.mem) (ho : u.out = s.out) :
    Ordinary s u :=
  of_flag_regs hf hr (by rw [State.Inv, State.Inv, hm, ho]; exact id) fun a _ => State.byteAt_congr hm a

/-- A change of memory alone. -/
theorem of_setMem {m : Memory} (hw : s.mem.wf = true → m.wf = true)
    (hm : ∀ a, writable a = false → (s.setMem m).byteAt a = s.byteAt a) : Ordinary s (s.setMem m) :=
  of_flag_regs rfl rfl (And.imp_left hw) hm

variable (h : Ordinary s u)
include h

theorem setPc (a : Word) : Ordinary s (u.setPc a) := h.trans (of_same rfl rfl rfl rfl)

theorem advance (n : Word) : Ordinary s (u.advance n) := h.trans (of_same rfl rfl rfl rfl)

theorem nextDraw : Ordinary s u.nextDraw := h.trans (of_same rfl rfl rfl rfl)

theorem setPending (b : BitVec 10) : Ordinary s (u.setPending b) := h.trans (of_same rfl rfl rfl rfl)

theorem ioSettle : Ordinary s u.ioSettle := h.trans (of_same rfl rfl rfl rfl)

theorem setCond (c : Cond) : Ordinary s (u.setCond c) :=
  h.trans ⟨id, ⟨rfl, rfl, rfl⟩, fun _ => rfl, fun _ _ => rfl⟩

theorem setReg (r : Reg) (w : Word) : Ordinary s (u.setReg r w) :=
  h.trans ⟨id, ⟨rfl, rfl, rfl⟩,
    fun hp => by rw [State.setReg_regs, hp]; exact Regs.set_ssp_ne _ _ (bank_user_ne_ssp r), fun _ _ => rfl⟩

theorem setByte {a : Word} (hw : writable a = true) (b : Byte) : Ordinary s (u.setByte a b) := by
  refine h.trans (of_setMem (Memory.wf_write _ _ a.isLt) fun k hk => ?_)
  exact (u.byteAt_setByte a k b).trans (if_neg (by rintro rfl; simp [hk] at hw))

theorem setWord {a : Word} (hw : writable a = true) (hw' : writable (a + 1#16) = true) (w : Word) :
    Ordinary s (u.setWord a w) :=
  (h.setByte hw _).setByte hw' _

theorem store {byte : Bool} {a w : Word} (hs : u.store byte a w = .done v) : Ordinary s v := by
  obtain ⟨p, -, hw, ⟨-, rfl⟩ | ⟨-, hw', rfl⟩⟩ := State.store_inv hs
  · exact h.setByte hw _
  · exact h.setWord hw hw' _

theorem pushWord {w : Word} (hs : u.pushWord w = .done v) : Ordinary s v := by
  obtain ⟨p, -, hw, hw', rfl⟩ := State.pushWord_inv hs
  exact (h.setWord hw hw' w).setReg .sp _

theorem ioWrite (byte : Bool) (a : Byte) (w : Word) : Ordinary s (u.ioWrite byte a w) := by
  obtain ⟨hr, -, hf, hm, -, -, -⟩ := u.ioWrite_frame byte a w
  refine h.trans (of_flag_regs hf hr ?_ fun k _ => State.byteAt_congr hm k)
  exact fun ⟨hwf, hcmd⟩ => ⟨by rw [hm]; exact hwf, State.ioStore_rn4020 hcmd byte a w⟩

/-! What a faulting instruction leaves free (60_exceptions R202). -/

theorem drawReg (r : Reg) (slot : Nat) : Ordinary s (u.drawReg r slot) := h.setReg r _

theorem drawCond : Ordinary s u.drawCond := h.setCond _

theorem drawResult (rd : Reg) : Ordinary s (u.drawResult rd) := (h.drawReg rd 0).drawCond

theorem drawPair (rd hi : Reg) : Ordinary s (u.drawPair rd hi) := ((h.drawReg rd 0).drawReg hi 1).drawCond

theorem drawStore (byte : Bool) (a : Word) : Ordinary s (u.drawStore byte a) := by
  obtain ⟨m, hm, hwf, hro⟩ := u.drawStore_frame byte a
  rw [hm]
  exact h.trans (of_setMem hwf fun k hk => hro k (.inr hk))

theorem drawPush : Ordinary s u.drawPush := (h.drawStore false _).drawReg .sp 0

theorem drawIn (rd : Reg) : Ordinary s (u.drawIn rd) := by
  rcases u.drawIn_cases rd with hd | hd <;> rw [hd]
  · exact h.drawReg rd 0
  · exact (h.drawReg rd 0).ioSettle

theorem drawOut (byte : Bool) : Ordinary s (u.drawOut byte) := by
  rcases u.drawOut_cases byte with hd | ⟨a, w, hd⟩ <;> rw [hd]
  · exact h
  · exact h.ioWrite byte a w

theorem drawWrites (i : Instr) : Ordinary s (u.drawWrites i) := by
  cases i with
  | ld rd _ => exact h.drawReg rd 0
  | inp rd _ => exact h.drawIn rd
  | out _ p => exact h.drawOut _
  | st _ l => exact h.drawStore _ _
  | cmp _ _ => exact h.drawCond
  | call _ => exact h.drawPush
  | mull rd _ | divl rd _ =>
    simp only [State.drawWrites]
    split
    · exact h.drawPair rd _
    · exact h
  | add rd _ | sub rd _ | and rd _ | or rd _ | xor rd _ | adds rd _ | mul rd _ | div rd _ | mod rd _ | shla rd _
  | shll rd _ | shra rd _ | shrl rd _ => exact h.drawResult rd
  | jz _ | jc _ | jm _ | jo _ | jgt _ | jge _ | jle _ | jlt _ | jnz _ | jnc _ | jnm _ | jno _ | jhi _ | jls _ | jmp _
  | no | ldFlag _ | push _ | pop _ | ret | reti | ei | di | svc | halt => exact h

theorem boundary : Ordinary s u.boundary := by
  obtain ⟨m, usd, hb, hwf, hro, -⟩ := u.boundary_frame
  rw [hb]
  exact h.trans ((of_setMem hwf hro).trans (of_same rfl rfl rfl rfl))

end Ordinary

/-- A trap entry, that goes on, after an ordinary change: a fault, SVC or an accepted interrupt. -/
def Traps (s t : State) : Prop := ∃ u n spc, Ordinary s u ∧ u.trapEntry n spc = .next t

/-- Every fault that goes on, after an ordinary change, is a trap entry after one. -/
theorem Ordinary.takeFault {s u t : State} {x : Exc} {len : Word} (h : Ordinary s u)
    (ht : u.takeFault x len = .next t) : Traps s t :=
  ⟨_, _, _, h.nextDraw, ht⟩

/-- Everything an instruction that goes on can do: an ordinary change, a trap entry after one, and what EI, DI and RETI do
to FLAG (47_system R192, R193; 46_stack_return R189). -/
inductive Effect (s : State) : Instr → State → Prop
  | ordinary {i : Instr} {t : State} (h : Ordinary s t) : Effect s i t
  | traps {i : Instr} {t : State} (h : Traps s t) : Effect s i t
  | ei : Effect s .ei ((s.setFlags { s.flag with e := true }).advance 2#16)
  | di : Effect s .di ((s.setFlags { s.flag with e := false }).advance 2#16)
  | reti {f a : Word} (h : s.popFrame = .ok (f, a)) :
      Effect s .reti (((s.setReg .sp (s.reg .sp + 4#16)).setFlags (s.retiFlags f)).setPc a)
  | retiFaults {f : Word} {x : Exc} {t : State}
      (h : ((s.drawReg .sp 0).setFlags (s.retiFlags f)).takeFault x 2#16 = .next t) : Effect s .reti t

section Families

variable {s t : State} {i : Instr}

/-- What the register-writing instructions of 41_alu, 42_muldiv and 43_shift can do. -/
theorem Effect.of_aluOp {rd : Reg} {src : Src} {result : Word → Word → Word} {cond : Word → Word → Cond → Cond}
    (h : s.aluOp rd src result cond = .next t) : Effect s i t := by
  cases hb : s.operand src with
  | ok b =>
    rw [State.aluOp_ok _ _ hb] at h
    cases h
    exact .ordinary ((((Ordinary.refl s).setReg rd _).setCond _).nextDraw.advance _)
  | error x =>
    rw [State.aluOp_error _ _ hb] at h
    exact .traps (((Ordinary.refl s).drawResult rd).takeFault h)

theorem Effect.of_divOp {rd : Reg} {src : Src} {result : Word → Word → Word}
    (h : s.divOp rd src result = .next t) : Effect s i t := by
  rw [State.divOp] at h
  split at h
  · exact .traps (((Ordinary.refl s).drawResult rd).takeFault h)
  · exact .of_aluOp h

theorem Effect.of_jumpIf {taken : Bool} {g : Target} (h : s.jumpIf taken g = .next t) : Effect s i t := by
  rw [State.jumpIf] at h
  cases h
  cases taken with
  | true => exact .ordinary ((Ordinary.refl s).setPc _)
  | false => exact .ordinary ((Ordinary.refl s).advance _)

/-- What EI, DI and HALT can do, from what they do where they are not denied. -/
theorem Effect.of_privileged {x : PrivOp} {u : State} (hu : Effect s i (u.advance 2#16))
    (h : s.privileged x u = .next t) : Effect s i t := by
  rw [State.privileged] at h
  split at h
  · exact .traps ((Ordinary.refl s).takeFault h)
  · cases h
    exact hu

/-- The writes of MULL and DIVL, two registers and the flags, are an ordinary change. -/
theorem Ordinary.writePair {u : State} (h : Ordinary s u) (rd hi : Reg) (lo up len : Word) :
    Ordinary s ((u.writePair rd hi lo up).advance len) :=
  (((h.setReg rd lo).setReg hi up).setCond _).nextDraw.advance len

end Families

section Instructions

variable {s t : State}

theorem execLd_effect {rd : Reg} {src : Src} (h : execLd rd src s = .next t) : Effect s (.ld rd src) t := by
  rw [execLd] at h
  split at h
  · cases h
    exact .ordinary (((Ordinary.refl s).setReg rd _).advance _)
  · exact .traps (((Ordinary.refl s).drawReg rd 0).takeFault h)

theorem execSt_effect {rd : Reg} {l : Loc} (h : execSt rd l s = .next t) : Effect s (.st rd l) t := by
  rw [execSt] at h
  split at h
  · next u hu =>
    cases h
    exact .ordinary (((Ordinary.refl s).store hu).advance _)
  · exact .traps (((Ordinary.refl s).drawStore _ _).takeFault h)
  · cases h

theorem execCmp_effect {rd : Reg} {src : Src} (h : execCmp rd src s = .next t) : Effect s (.cmp rd src) t := by
  rw [execCmp] at h
  split at h
  · cases h
    exact .ordinary (((Ordinary.refl s).setCond _).advance _)
  · exact .traps ((Ordinary.refl s).drawCond.takeFault h)

theorem execMull_effect {rd : Reg} {src : Src} (h : execMull rd src s = .next t) : Effect s (.mull rd src) t := by
  rw [execMull] at h
  split at h
  · cases h
  · next hi _ =>
    split at h
    · exact .traps (((Ordinary.refl s).drawPair rd hi).takeFault h)
    · cases h
      exact .ordinary ((Ordinary.refl s).writePair rd hi _ _ _)

theorem execDivl_effect {rd : Reg} {src : Src} (h : execDivl rd src s = .next t) : Effect s (.divl rd src) t := by
  rw [execDivl] at h
  split at h
  · cases h
  · next hi _ =>
    split at h
    · exact .traps (((Ordinary.refl s).drawPair rd hi).takeFault h)
    · split at h
      · exact .traps (((Ordinary.refl s).drawPair rd hi).takeFault h)
      · cases h
        exact .ordinary ((Ordinary.refl s).writePair rd hi _ _ _)

theorem execCall_effect {g : Target} (h : execCall g s = .next t) : Effect s (.call g) t := by
  rw [execCall] at h
  split at h
  · next u hu =>
    cases h
    exact .ordinary (((Ordinary.refl s).pushWord hu).setPc _)
  · exact .traps ((Ordinary.refl s).drawPush.takeFault h)
  · cases h

theorem execInp_effect {rd : Reg} {p : Port} (h : execInp rd p s = .next t) : Effect s (.inp rd p) t := by
  rw [execInp] at h
  split at h
  · exact .traps ((Ordinary.refl s).takeFault h)
  · split at h
    · cases h
      exact .ordinary (((Ordinary.refl s).setReg rd _).ioSettle.advance _)
    · exact .traps (((Ordinary.refl s).drawIn rd).takeFault h)
    · cases h

theorem execOut_effect {rd : Reg} {p : Port} (h : execOut rd p s = .next t) : Effect s (.out rd p) t := by
  rw [execOut] at h
  split at h
  · exact .traps ((Ordinary.refl s).takeFault h)
  · split at h
    · cases h
      exact .ordinary (((Ordinary.refl s).ioWrite _ _ _).advance _)
    · exact .traps (((Ordinary.refl s).drawOut _).takeFault h)
    · cases h

theorem execPush_effect {rd : Reg} (h : execPush rd s = .next t) : Effect s (.push rd) t := by
  rw [execPush] at h
  split at h
  · cases h
  · split at h
    · next u hu =>
      cases h
      exact .ordinary (((Ordinary.refl s).pushWord hu).advance _)
    · exact .traps ((Ordinary.refl s).drawPush.takeFault h)
    · cases h

theorem execPop_effect {rd : Reg} (h : execPop rd s = .next t) : Effect s (.pop rd) t := by
  rw [execPop] at h
  split at h
  · cases h
  · split at h
    · cases h
      exact .ordinary ((((Ordinary.refl s).setReg .sp _).setReg rd _).advance _)
    · exact .traps ((((Ordinary.refl s).drawReg .sp 0).drawReg rd 1).takeFault h)

theorem execRet_effect (h : execRet s = .next t) : Effect s .ret t := by
  rw [execRet] at h
  split at h
  · cases h
    exact .ordinary (((Ordinary.refl s).setReg .sp _).setPc _)
  · exact .traps (((Ordinary.refl s).drawReg .sp 0).takeFault h)

theorem execReti_effect (h : execReti s = .next t) : Effect s .reti t := by
  rw [execReti] at h
  split at h
  · exact .traps ((Ordinary.refl s).takeFault h)
  · rw [State.trapReturn] at h
    split at h
    · next hpop =>
      cases h
      exact .reti hpop
    · exact .retiFaults h

/-- Everything an instruction that goes on can do. -/
theorem exec_effect {i : Instr} (h : exec i s = .next t) : Effect s i t := by
  cases i with
  | no => cases h; exact .ordinary ((Ordinary.refl s).advance _)
  | ldFlag rd => cases h; exact .ordinary (((Ordinary.refl s).setReg rd _).advance _)
  | ld rd src => exact execLd_effect h
  | st rd l => exact execSt_effect h
  | cmp rd src => exact execCmp_effect h
  | add rd src | sub rd src | and rd src | or rd src | xor rd src | adds rd src | mul rd src | shla rd src
  | shll rd src | shra rd src | shrl rd src =>
    simp only [exec, execAdd, execSub, execAnd, execOr, execXor, execAdds, execMul, execShla, execShll, execShra,
      execShrl] at h
    exact .of_aluOp h
  | div rd src | mod rd src => exact .of_divOp h
  | mull rd src => exact execMull_effect h
  | divl rd src => exact execDivl_effect h
  | jz g | jc g | jm g | jo g | jgt g | jge g | jle g | jlt g | jnz g | jnc g | jnm g | jno g | jhi g | jls g | jmp g =>
    exact .of_jumpIf h
  | call g => exact execCall_effect h
  | inp rd p => exact execInp_effect h
  | out rd p => exact execOut_effect h
  | push rd => exact execPush_effect h
  | pop rd => exact execPop_effect h
  | ret => exact execRet_effect h
  | reti => exact execReti_effect h
  | ei => exact .of_privileged .ei h
  | di => exact .of_privileged .di h
  | svc => exact .traps ⟨s, _, _, .refl s, h⟩
  | halt => exact .of_privileged (u := { s with halted := true }) (.ordinary (.of_same rfl rfl rfl rfl)) h

end Instructions

/-! ## What a step can do -/

/-! Fetch faults, words that are no instruction, and accepted interrupts: each that goes on is a trap entry. -/

theorem State.fetchFault_traps {s t : State} {x : Exc} (h : s.fetchFault x = .next t) : Traps s t :=
  (Ordinary.refl s).takeFault h

theorem State.fetchFaultSecond_traps {s t : State} {w1 : Word} {x : Exc} (h : s.fetchFaultSecond w1 x = .next t) :
    Traps s t := by
  rw [State.fetchFaultSecond] at h
  split at h
  · next i _ => exact ((Ordinary.refl s).drawWrites i).takeFault h
  · exact (Ordinary.refl s).takeFault h

theorem State.reject_traps {s t : State} {e : DecodeErr} (h : s.reject e = .next t) : Traps s t := by
  cases e with
  | undefinedOpcode | truncated => exact (Ordinary.refl s).takeFault h
  | mustBeZero | blankCondition | registerPair | pcOperand | stackPointerOperand => cases h

theorem State.acceptInterrupt_traps {s t : State} (h : s.acceptInterrupt = .next t) : Traps s t :=
  ⟨_, _, _, ((Ordinary.refl s).setPending _).nextDraw, h⟩

/-- The devices act after whatever goes on. -/
theorem atBoundary_inv {r : Result} {t : State} (h : atBoundary r = .next t) : ∃ u, r = .next u ∧ t = u.boundary := by
  cases r with
  | next u => cases h; exact ⟨u, rfl, rfl⟩
  | fault f => cases h
  | refused r => cases h

/-- Everything a step that goes on can do: nothing in a halted machine; else a trap entry, or the fetched instruction, and
then the devices act. -/
theorem step_inv {s t : State} (h : step s = .next t) :
    t = s ∨ ∃ u, t = u.boundary ∧ (Traps s u ∨ ∃ i, s.fetch = .instr i ∧ Effect s i u) := by
  rw [step] at h
  split at h
  · cases h
    exact .inl rfl
  · obtain ⟨u, hu, rfl⟩ := atBoundary_inv h
    refine .inr ⟨u, rfl, ?_⟩
    split at hu
    · exact .inl (State.acceptInterrupt_traps hu)
    · split at hu
      · next i hi => exact .inr ⟨i, hi, exec_effect hu⟩
      · exact .inl (State.fetchFault_traps hu)
      · exact .inl (State.fetchFaultSecond_traps hu)
      · exact .inl (State.reject_traps hu)

/-! ## The invariant -/

/-- Trap entry keeps the invariant: it writes memory in canonical form and no output port. -/
theorem State.trapEntry_keeps_inv {s t : State} {n : BitVec 4} {spc : Word} (hi : s.Inv)
    (h : s.trapEntry n spc = .next t) : t.Inv := by
  obtain ⟨p, q, a, -, -, -, -, -, rfl⟩ := State.trapEntry_inv h
  obtain ⟨hwf, hcmd⟩ := hi
  exact ⟨State.wf_setWord (State.wf_setWord (s := s) hwf p spc) q s.flag.toWord, hcmd⟩

theorem Traps.keeps_inv {s t : State} (h : Traps s t) (hi : s.Inv) : t.Inv := by
  obtain ⟨u, n, spc, hu, ht⟩ := h
  exact State.trapEntry_keeps_inv (hu.inv hi) ht

/-- Every instruction keeps the invariant; FLAG, which EI, DI and RETI write, is no part of it. -/
theorem Effect.keeps_inv {s t : State} {i : Instr} (h : Effect s i t) (hi : s.Inv) : t.Inv := by
  cases h with
  | ordinary h => exact h.inv hi
  | traps h => exact h.keeps_inv hi
  | ei | di | reti _ => exact hi
  | @retiFaults f _ _ h =>
    obtain ⟨spc, -, ht⟩ := State.takeFault_inv h
    exact State.trapEntry_keeps_inv (s := ((s.drawReg .sp 0).setFlags (s.retiFlags f)).nextDraw) hi ht

/-- Settles O56: trap entries, instructions and the devices each keep the invariant. -/
theorem stepKeepsInvariant : Obligations.StepKeepsInvariant := by
  intro s t hi h
  obtain rfl | ⟨u, rfl, htrap | ⟨i, -, heffect⟩⟩ := step_inv h
  · exact hi
  · exact (Ordinary.refl u).boundary.inv (htrap.keeps_inv hi)
  · exact (Ordinary.refl u).boundary.inv (heffect.keeps_inv hi)

/-! ## The mode bits -/

@[simp] theorem State.boundary_flag (s : State) : s.boundary.flag = s.flag := by
  obtain ⟨m, usd, hb, -⟩ := s.boundary_frame
  rw [hb]
  rfl

@[simp] theorem State.boundary_regs (s : State) : s.boundary.regs = s.regs := by
  obtain ⟨m, usd, hb, -⟩ := s.boundary_frame
  rw [hb]
  rfl

/-- What trap entry and then the devices do to FLAG and, in user mode, to SSP (60_exceptions R208). -/
def TrapModes (s t : State) : Prop :=
  EntersTrap s t ∧ t.flag.p = true ∧ t.flag.e = false ∧ t.flag.i = s.flag.i ∧
    (s.flag.p = false → t.regs.ssp = s.regs.ssp - 4#16)

theorem Traps.modes {s u : State} (h : Traps s u) : TrapModes s u.boundary := by
  obtain ⟨s', n, spc, hs, ht⟩ := h
  have hentered := State.trapEntry_entered ht
  have ⟨hssp, hp, he, hi, _⟩ := hentered
  have ⟨_, _, hi'⟩ := hs.mode
  simp only [TrapModes, State.boundary_flag, State.boundary_regs]
  exact ⟨⟨s', u, n, hs.mode, hs.ssp, hentered, rfl⟩, hp, he, hi.trans hi', fun hu => by rw [hssp, hs.ssp hu]⟩

/-- Everything a step can do to the mode bits: nothing, trap entry, or what the fetched EI, DI or RETI does. -/
theorem step_modes {s t : State} (h : step s = .next t) :
    ModeSame s t ∨ TrapModes s t ∨ (s.fetch = .instr .ei ∧ t.flag = { s.flag with e := true }) ∨
      (s.fetch = .instr .di ∧ t.flag = { s.flag with e := false }) ∨ s.fetch = .instr .reti := by
  obtain rfl | ⟨u, rfl, htrap | ⟨i, hfetch, heffect⟩⟩ := step_inv h
  · exact .inl ⟨rfl, rfl, rfl⟩
  · exact .inr (.inl htrap.modes)
  · cases heffect with
    | ordinary h => exact .inl h.boundary.mode
    | traps htrap => exact .inr (.inl htrap.modes)
    | ei => exact .inr (.inr (.inl ⟨hfetch, by simp⟩))
    | di => exact .inr (.inr (.inr (.inl ⟨hfetch, by simp⟩)))
    | reti _ | retiFaults _ => exact .inr (.inr (.inr (.inr hfetch)))

/-- Settles O60, by the cases of what a step can do to the mode bits. -/
theorem modeBitWriters : Obligations.ModeBitWriters := by
  intro s t h
  obtain ⟨he, hp, hi⟩ | ⟨hentry, hp, he, hi, hssp⟩ | ⟨hfetch, hflag⟩ | ⟨hfetch, hflag⟩ | hfetch := step_modes h
  · simp +contextual [he, hp, hi]
  · simp +contextual [hentry, hp, he, hi, hssp]
  · simp +contextual [hfetch, hflag]
  · simp +contextual [hfetch, hflag]
  · simp [hfetch]

end Sys2Proof.Machine
end

section
/-! PROOFS. What a rejected access raises, what an access to a word at an odd address comes to in each instruction, and
which bytes of memory a step can change. -/

namespace Sys2Proof.Machine

/-! ## Bytes that are not Writable -/

/-- Trap entry pushes to Writable words alone. -/
theorem State.trapEntry_keeps_readOnly {s t : State} {n : BitVec 4} {spc a : Word} (ha : writable a = false)
    (h : s.trapEntry n spc = .next t) : t.byteAt a = s.byteAt a := by
  obtain ⟨p, q, b, hp, hp', hq, hq', -, rfl⟩ := State.trapEntry_inv h
  have hpushes : Ordinary s ((s.setWord p spc).setWord q s.flag.toWord) :=
    ((Ordinary.refl s).setWord hp hp' spc).setWord hq hq' s.flag.toWord
  exact hpushes.readOnly a ha

theorem Traps.keeps_readOnly {s t : State} {a : Word} (ha : writable a = false) (h : Traps s t) :
    t.byteAt a = s.byteAt a := by
  obtain ⟨u, n, spc, hu, ht⟩ := h
  exact (State.trapEntry_keeps_readOnly ha ht).trans (hu.readOnly a ha)

/-- No instruction changes a byte that is not Writable; EI, DI and RETI change no byte before a trap entry. -/
theorem Effect.keeps_readOnly {s t : State} {i : Instr} {a : Word} (ha : writable a = false) (h : Effect s i t) :
    t.byteAt a = s.byteAt a := by
  cases h with
  | ordinary h => exact h.readOnly a ha
  | traps h => exact h.keeps_readOnly ha
  | ei | di | reti _ => rfl
  | retiFaults h =>
    obtain ⟨spc, -, ht⟩ := State.takeFault_inv h
    have hentry := State.trapEntry_keeps_readOnly ha ht
    exact hentry

/-- Settles O57: the halted machine, trap entries, instructions and the devices each keep a byte that is not Writable. -/
theorem stepChangesOnlyWritable : Obligations.StepChangesOnlyWritable := by
  intro s t a h hne
  by_contra hw
  have ha : writable a = false := by simpa using hw
  refine hne ?_
  obtain rfl | ⟨u, rfl, htrap | ⟨i, -, heffect⟩⟩ := step_inv h
  · rfl
  · exact ((Ordinary.refl u).boundary.readOnly a ha).trans (htrap.keeps_readOnly ha)
  · exact ((Ordinary.refl u).boundary.readOnly a ha).trans (heffect.keeps_readOnly ha)

/-! ## What the check of an access gives -/

/-- An access with nothing to align: permission decides (20_memory R62). -/
theorem State.check_aligned (s : State) (kind : AccessKind) {byte : Bool} {a : Word}
    (h : (!byte && isOdd a) = false) :
    s.check kind byte a =
      if (s.translate kind a).permitted then .ok (s.translate kind a).phys else .error .memProtViolation := by
  simp [State.check, h]

/-- A word at an odd address is never accessed; MemProtViolation may come first where the MMU rejects it too
(60_exceptions R210). -/
theorem State.check_odd (s : State) (kind : AccessKind) {a : Word} (ho : isOdd a = true) :
    s.check kind false a = .error .invalidAddress ∨
      (s.translate kind a).permitted = false ∧ s.check kind false a = .error .memProtViolation := by
  cases hp : (s.translate kind a).permitted with
  | true => exact .inl (by simp [State.check, ho, hp])
  | false =>
    cases hf : Config.oddFirst s.tick with
    | true => exact .inl (by simp [State.check, ho, hp, hf])
    | false => exact .inr ⟨rfl, by simp [State.check, ho, hp, hf]⟩

/-- An access that the MMU rejects raises MemProtViolation, or InvalidAddress for a word at an odd address. -/
theorem State.check_rejected (s : State) (kind : AccessKind) (byte : Bool) (a : Word)
    (hp : (s.translate kind a).permitted = false) :
    ∃ x, s.check kind byte a = .error x ∧
      (x = .memProtViolation ∨ x = .invalidAddress ∧ byte = false ∧ isOdd a = true) := by
  cases hodd : !byte && isOdd a with
  | false => exact ⟨_, by rw [s.check_aligned kind hodd, hp]; rfl, .inl rfl⟩
  | true =>
    obtain ⟨rfl, ho⟩ : byte = false ∧ isOdd a = true := by simpa using hodd
    rcases s.check_odd kind ho with hc | ⟨-, hc⟩
    · exact ⟨_, hc, .inr ⟨rfl, rfl, ho⟩⟩
    · exact ⟨_, hc, .inl rfl⟩

/-- A datum whose access is rejected is not loaded. -/
theorem State.loadLoc_error {s : State} {l : Loc} {x : Exc}
    (h : s.check .read (isByteLoc l) (s.effAddr l) = .error x) : s.loadLoc l = .error x := by
  cases hb : isByteLoc l with
  | true => rw [hb] at h; simp [State.loadLoc, State.loadByte, hb, h, Except.map]
  | false => rw [hb] at h; simp [State.loadLoc, State.loadWord, hb, h, Except.map]

/-- An LD whose operand is not there is a fault that leaves Rd free. -/
theorem exec_ld_error {s : State} {rd : Reg} {src : Src} {x : Exc} (h : s.operand src = .error x) :
    exec (.ld rd src) s = (s.drawReg rd 0).takeFault x (srcLen src) := by
  simp only [exec, execLd, h]

/-- Settles O13: an access is decided by its alignment and its permission, and an LD that is rejected goes on, where it
does, by the trap entry of the exception that the check raises. -/
theorem memoryAccess : Obligations.MemoryAccess := by
  refine ⟨fun s kind a hm => by simp [State.translate, hm], fun s kind a => ⟨?_, ?_, ?_, ?_⟩, ?_⟩
  · exact s.check_aligned kind rfl
  · intro heven
    exact s.check_aligned kind (by simp [isOdd_eq, heven])
  · intro hodd
    exact s.check_odd kind (by simp [isOdd_eq, hodd])
  · intro p hp
    exact State.loadWord_of_check hp
  · intro s t rd l h
    cases hp : (s.translate .read (s.effAddr l)).permitted with
    | true => exact .inl rfl
    | false =>
      obtain ⟨x, hc, hx⟩ := s.check_rejected .read (isByteLoc l) (s.effAddr l) hp
      rw [exec_ld_error (src := .loc l) (State.loadLoc_error hc)] at h
      obtain ⟨spc, -, ht⟩ := State.takeFault_inv h
      have hentered := State.trapEntry_entered ht
      refine .inr ⟨_, x.vector, ?_, hentered⟩
      obtain rfl | ⟨rfl, hb, ho⟩ := hx
      · exact .inl rfl
      · exact .inr ⟨rfl, hb, ho⟩

/-! ## Words at odd addresses, with the MMU off -/

section OddWord

variable {s : State} (hm : s.mmuEn = false)
include hm

theorem State.check_odd_mmuOff (kind : AccessKind) {a : Word} (ho : isOdd a = true) :
    s.check kind false a = .error .invalidAddress := by
  simp [State.check_mmuOff hm, ho]

theorem State.loadWord_odd (kind : AccessKind) {a : Word} (ho : isOdd a = true) :
    s.loadWord kind a = .error .invalidAddress := by
  simp [State.loadWord, State.check_odd_mmuOff hm kind ho, Except.map]

theorem State.operand_odd {l : Loc} (hb : isByteLoc l = false) (ho : isOdd (s.effAddr l) = true) :
    s.operand (.loc l) = .error .invalidAddress :=
  State.loadLoc_error (by rw [hb]; exact State.check_odd_mmuOff hm .read ho)

theorem State.store_odd {a : Word} (v : Word) (ho : isOdd a = true) : s.store false a v = .raises .invalidAddress := by
  simp [State.store, State.storeWord, State.check_odd_mmuOff hm .write ho]

theorem State.pushWord_odd (v : Word) (ho : isOdd (s.reg .sp) = true) : s.pushWord v = .raises .invalidAddress := by
  have ho' : isOdd (s.reg .sp - 2#16) = true := by rw [isOdd_sub_two]; exact ho
  simp [State.pushWord, State.store_odd hm v ho']

end OddWord

/-! ## Faulting reads -/

/-- The instructions that write one register and V, C, S, Z from Rd and an operand (41_alu, 42_muldiv, 43_shift). -/
def registerWriters (rd : Reg) (src : Src) : List Instr :=
  [.add rd src, .sub rd src, .and rd src, .or rd src, .xor rd src, .adds rd src, .mul rd src, .div rd src, .mod rd src,
    .shla rd src, .shll rd src, .shra rd src, .shrl rd src]

section Faults

variable {s : State} {rd hi : Reg} {src : Src} {x : Exc}

/-- DIV and MOD do not come to the zero test where the operand is not there (42_muldiv R145). -/
theorem State.divOp_error (result : Word → Word → Word) (h : s.operand src = .error x) :
    s.divOp rd src result = (s.drawResult rd).takeFault x (srcLen src) := by
  rw [State.divOp, if_neg (by simp [h]), State.aluOp_error _ _ h]

/-- Every one of them whose operand is not there is a fault that leaves Rd and V, C, S, Z free. -/
theorem exec_registerWriters_error {i : Instr} (hi : i ∈ registerWriters rd src) (h : s.operand src = .error x) :
    exec i s = (s.drawResult rd).takeFault x (srcLen src) := by
  simp only [registerWriters, List.mem_cons, List.not_mem_nil, or_false] at hi
  obtain rfl | rfl | rfl | rfl | rfl | rfl | rfl | rfl | rfl | rfl | rfl | rfl | rfl := hi
  all_goals
    simp only [exec, execAdd, execSub, execAnd, execOr, execXor, execAdds, execMul, execDiv, execMod, execShla, execShll,
      execShra, execShrl, State.aluOp_error _ _ h, State.divOp_error _ h]

theorem exec_cmp_error (h : s.operand src = .error x) :
    exec (.cmp rd src) s = s.drawCond.takeFault x (srcLen src) := by
  simp only [exec, execCmp, h]

/-- MULL and DIVL whose operand is not there: faults that leave the pair and V, C, S, Z free. -/
theorem exec_pair_error {i : Instr} (hp : (rd, hi) ∈ registerPairs) (hmem : i ∈ [Instr.mull rd src, .divl rd src])
    (h : s.operand src = .error x) : exec i s = (s.drawPair rd hi).takeFault x (srcLen src) := by
  simp only [List.mem_cons, List.not_mem_nil, or_false] at hmem
  obtain rfl | rfl := hmem
  · simp only [exec, execMull, pairHigh_mem hp, h]
  · simp only [exec, execDivl, pairHigh_mem hp, h]

theorem exec_pop_error (hrd : ¬ IsStackPointer s rd) (h : s.loadWord .read (s.reg .sp) = .error x) :
    exec (.pop rd) s = ((s.drawReg .sp 0).drawReg rd 1).takeFault x 2#16 := by
  simp only [exec, execPop, s.namesSp_iff, hrd, if_false, h]

theorem exec_ret_error (h : s.loadWord .read (s.reg .sp) = .error x) :
    exec .ret s = (s.drawReg .sp 0).takeFault x 2#16 := by
  simp only [exec, execRet, h]

/-- RETI with no frame to pop: PrivViolation in user mode where RETI_USER says so, else a fault that leaves SP and FLAG
free (92_eei_decisions D20; log 19). -/
theorem exec_reti_error (h : s.loadWord .read (s.reg .sp) = .error x) :
    (s.flag.p = false ∧ exec .reti s = s.takeFault .privViolation 2#16) ∨
      exec .reti s =
        ((s.drawReg .sp 0).setFlags (s.retiFlags (Config.faultWord s.tick 1))).takeFault x 2#16 := by
  have hpop : s.popFrame = .error x := by simp only [State.popFrame, h]
  simp only [exec, execReti]
  split
  · next hu =>
    obtain ⟨hp, -⟩ : s.flag.p = false ∧ Config.retiUserTraps = true := by simpa using hu
    exact .inl ⟨hp, rfl⟩
  · exact .inr (by simp only [State.trapReturn, hpop])

end Faults

/-- Settles O18: the word at an odd address is not loaded, and each instruction that reads it is then a fault after what it
leaves free. -/
theorem oddLoadTraps : Obligations.OddLoadTraps := by
  refine ⟨fun s l hm hb ho => ?_, fun s hm ho => ?_⟩
  · have hload : s.operand (.loc l) = .error .invalidAddress := State.operand_odd hm hb ho
    refine ⟨fun rd => ?_, fun rd i hi => ?_, fun rd => ?_, fun rd hi i hp hmem => ?_⟩
    · rw [exec_ld_error hload]
      exact ⟨_, (s.drawReg rd 0).takeFault_outcome .invalidAddress (locLen l) hm⟩
    · rw [exec_registerWriters_error hi hload]
      exact ⟨_, _, (s.drawResult rd).takeFault_outcome .invalidAddress (locLen l) hm⟩
    · rw [exec_cmp_error hload]
      exact ⟨_, s.drawCond.takeFault_outcome .invalidAddress (locLen l) hm⟩
    · rw [exec_pair_error hp hmem hload]
      exact ⟨_, _, _, (s.drawPair rd hi).takeFault_outcome .invalidAddress (locLen l) hm⟩
  · have hload : s.loadWord .read (s.reg .sp) = .error .invalidAddress := State.loadWord_odd hm .read ho
    refine ⟨fun rd hrd => ?_, ?_, ?_⟩
    · rw [exec_pop_error hrd hload]
      exact ⟨_, _, ((s.drawReg .sp 0).drawReg rd 1).takeFault_outcome .invalidAddress 2#16 hm⟩
    · rw [exec_ret_error hload]
      exact ⟨_, (s.drawReg .sp 0).takeFault_outcome .invalidAddress 2#16 hm⟩
    · rcases exec_reti_error hload with ⟨hu, hexec⟩ | hexec
      · rw [hexec]
        exact .inr ⟨hu, s.takeFault_outcome .privViolation 2#16 hm⟩
      · rw [hexec]
        exact .inl ⟨_, _, State.takeFault_outcome (s := (s.drawReg .sp 0).setFlags _) .invalidAddress 2#16 hm⟩

/-! ## Faulting stores -/

/-- The words that hold the bytes of a word at an odd address are the two around it. -/
theorem wordBase_ne_of_odd {a b : Word} (ho : isOdd a = true)
    (hb : b ∉ [a - 1#16, a, a + 1#16, a + 2#16]) : wordBase b ≠ wordBase a ∧ wordBase b ≠ wordBase (a + 1#16) := by
  obtain ⟨h0, h1⟩ := wordBase_odd ho
  simp only [List.mem_cons, List.not_mem_nil, or_false, not_or] at hb
  obtain ⟨hb0, hb1, hb2, hb3⟩ := hb
  rw [h0, h1]
  constructor <;> intro h <;> rcases wordBase_cases h with rfl | rfl
  · exact hb0 rfl
  · exact hb1 (by bv_omega)
  · exact hb2 rfl
  · exact hb3 (by bv_omega)

/-- A faulting store of a word to an odd address leaves free the two words around it and nothing else (60_exceptions
R202). -/
theorem State.drawStore_odd {s : State} {a : Word} (hm : s.mmuEn = false) (ho : isOdd a = true) :
    ∃ m, s.drawStore false a = s.setMem m ∧ MemSameBut s (s.setMem m) [a - 1#16, a, a + 1#16, a + 2#16] := by
  obtain ⟨m, hdraw, -, hframe⟩ := s.drawStore_frame false a
  have hphys : (s.translate .write a).phys = a := by simp [State.translate, hm]
  rw [hphys] at hframe
  exact ⟨m, hdraw, fun b hb => hframe b (.inl (wordBase_ne_of_odd ho hb))⟩

/-- A faulting push to an odd SP leaves free SP and the two words around the word below SP. -/
theorem State.drawPush_odd {s : State} (hm : s.mmuEn = false) (ho : isOdd (s.reg .sp) = true) :
    ∃ m v, s.drawPush = (s.setMem m).setReg .sp v ∧
      MemSameBut s (s.setMem m) [s.reg .sp - 3#16, s.reg .sp - 2#16, s.reg .sp - 1#16, s.reg .sp] := by
  obtain ⟨m, hdraw, hframe⟩ :=
    State.drawStore_odd (a := s.reg .sp - 2#16) hm (by rw [isOdd_sub_two]; exact ho)
  have h3 : s.reg .sp - 2#16 - 1#16 = s.reg .sp - 3#16 := by bv_omega
  have h1 : s.reg .sp - 2#16 + 1#16 = s.reg .sp - 1#16 := by bv_omega
  have h0 : s.reg .sp - 2#16 + 2#16 = s.reg .sp := by bv_omega
  rw [h3, h1, h0] at hframe
  exact ⟨m, _, by rw [State.drawPush, hdraw]; rfl, hframe⟩

section StoreFaults

variable {s : State} {rd : Reg} {x : Exc}

theorem exec_st_raises {l : Loc} (h : s.store (isByteLoc l) (s.effAddr l) (s.reg rd) = .raises x) :
    exec (.st rd l) s = (s.drawStore (isByteLoc l) (s.effAddr l)).takeFault x (locLen l) := by
  simp only [exec, execSt, h]

theorem exec_push_raises (hrd : ¬ IsStackPointer s rd) (h : s.pushWord (s.reg rd) = .raises x) :
    exec (.push rd) s = s.drawPush.takeFault x 2#16 := by
  simp only [exec, execPush, s.namesSp_iff, hrd, if_false, h]

theorem exec_call_raises {g : Target} (h : s.pushWord (s.pc + targetLen g) = .raises x) :
    exec (.call g) s = s.drawPush.takeFault x (targetLen g) := by
  simp only [exec, execCall, h]

end StoreFaults

/-- Settles O21: the word is not stored at an odd address, and ST, PUSH and CALL are then faults after what they leave
free. -/
theorem oddStoreTraps : Obligations.OddStoreTraps := by
  refine ⟨fun s rd l hm hb ho => ?_, fun s hm ho => ?_⟩
  · obtain ⟨m, hdraw, hframe⟩ := State.drawStore_odd hm ho
    have hexec := exec_st_raises (rd := rd) (l := l) (by rw [hb]; exact State.store_odd hm _ ho)
    rw [hb, hdraw] at hexec
    obtain ⟨spc, hspc, hout⟩ := (s.setMem m).takeFault_outcome .invalidAddress (locLen l) hm
    exact ⟨m, spc, hspc, hframe, hexec ▸ hout⟩
  · obtain ⟨m, v, hdraw, hframe⟩ := State.drawPush_odd hm ho
    have hfault : ∀ len, ∃ spc, SavedPc s len spc ∧
        TrapOutcome ((s.setMem m).setReg .sp v) 10#4 spc (s.drawPush.takeFault .invalidAddress len) := by
      rw [hdraw]
      exact fun len => State.takeFault_outcome (s := (s.setMem m).setReg .sp v) .invalidAddress len hm
    refine ⟨fun rd hrd => ?_, fun g => ?_⟩
    · obtain ⟨spc, hspc, hout⟩ := hfault 2#16
      exact ⟨m, v, spc, hspc, hframe, exec_push_raises hrd (State.pushWord_odd hm _ ho) ▸ hout⟩
    · obtain ⟨spc, hspc, hout⟩ := hfault (targetLen g)
      exact ⟨m, v, spc, hspc, hframe, exec_call_raises (State.pushWord_odd hm _ ho) ▸ hout⟩

end Sys2Proof.Machine
end

section
/-! PROOFS. The I/O map: what reads of its rows give and what writes to them change (20_memory R54, R55). -/

namespace Sys2Proof.Machine

/-! ## The bytes of a port -/

/-- The 00H byte of a row reads as zero, so the row reads as its port (20_memory R54). -/
theorem toNat_joinBytes_zero (b : Byte) : (joinBytes 0#8 b).toNat = b.toNat := by
  simp [toNat_joinBytes]

/-- Bits drawn 0 above a field do not change its value (log 27). -/
theorem toNat_zero_append {k n : Nat} (x : BitVec n) : (0#k ++ x).toNat = x.toNat := by
  simp

/-- `TR00 0000`, as a number (60_exceptions R225). -/
theorem SerialBits.toNat_toByte (x : SerialBits) : x.toByte.toNat = 128 * x.t.toNat + 64 * x.r.toNat := by
  obtain ⟨t, r⟩ := x
  cases t <;> cases r <;> rfl

/-- `0000 IE00`, as a number (60_exceptions R228). -/
theorem UsdStat.toNat_toByte (x : UsdStat) : x.toByte.toNat = 8 * x.idle.toNat + 4 * x.error.toNat := by
  obtain ⟨idle, error⟩ := x
  cases idle <;> cases error <;> rfl

/-- RN4020-Cmd reads in its four bits alone (60_exceptions R226). -/
theorem State.rn4020CmdByte_lt (s : State) : s.rn4020CmdByte.toNat < 16 := by
  have hnibble : ∀ x : BitVec 4, (0#4 ++ x).toNat < 16 := fun x => (toNat_zero_append x).trans_lt x.isLt
  rw [State.rn4020CmdByte]
  split
  · exact hnibble _
  · exact hnibble _

/-- RN4020-Cmd reads 0001 until it is written (60_exceptions R226; log 28). -/
theorem State.rn4020CmdByte_unwritten {s : State} (hi : s.Inv) (hw : s.out.rn4020CmdWritten = false) :
    s.rn4020CmdByte = 1#8 := by
  obtain ⟨-, hcmd⟩ := hi
  rw [State.rn4020CmdByte, hw, hcmd hw]
  rfl

/-! ## Reads -/

/-- A byte read of the upper half of a word (20_memory R55). -/
theorem State.ioValue_upper (s : State) (a : Byte) : s.ioValue true a = zextByte (hiByte (s.ioValue false a)) :=
  congrArg zextByte (hiByte_joinBytes _ _).symm

/-- A byte read of the lower half of a word (20_memory R55). -/
theorem State.ioValue_lower (s : State) (a : Byte) :
    s.ioValue true (a + 1#8) = zextByte (loByte (s.ioValue false a)) :=
  congrArg zextByte (loByte_joinBytes _ _).symm

/-- A row that reads 00H and one byte, as a number. -/
theorem State.toNat_ioValue_row {s : State} {a b : Byte} {n : Nat}
    (hrow : s.ioValue false a = joinBytes 0#8 b) (hb : b.toNat = n) : (s.ioValue false a).toNat = n := by
  rw [hrow, toNat_joinBytes_zero, hb]

/-- Settles O54, row by row: a word port reads as its two bytes joined, a byte port as 00H and its byte. -/
theorem portReads : Obligations.PortReads := by
  intro s
  refine ⟨?timer0Value, ?timer0Flag, ?timer1Value, ?timer1Flag, ?ft232rlData, ?ft232rlStat, ?tecData, ?tecStat, ?usdStat,
    ?extIn, ?mode, ?adc0, ?adc1, ?adc2, ?adc3, ?rn4020Data, ?rn4020Stat, ?rn4020Cmd, ?rn4020CmdUnwritten, ?dataSw,
    ?consoleAddr, ?rotary, ?func, ?outputRows, fun a _ => ⟨s.ioValue_upper a, s.ioValue_lower a⟩⟩
  case timer0Value | timer0Flag | timer1Value | timer1Flag | dataSw | consoleAddr => exact joinBytes_hi_lo _
  case ft232rlData | tecData | extIn | adc0 | adc1 | adc2 | adc3 | rn4020Data => exact State.toNat_ioValue_row rfl rfl
  case ft232rlStat | tecStat | rn4020Stat => exact State.toNat_ioValue_row rfl (SerialBits.toNat_toByte _)
  case usdStat => exact State.toNat_ioValue_row rfl (UsdStat.toNat_toByte _)
  case mode => exact State.toNat_ioValue_row rfl (toNat_zero_append (k := 5) s.mode)
  case rotary => exact State.toNat_ioValue_row rfl (toNat_zero_append (k := 3) s.inp.rotary)
  case func => exact State.toNat_ioValue_row rfl (toNat_zero_append (k := 4) s.inp.func)
  case rn4020Cmd =>
    have hrow : s.ioValue false 0x2C#8 = joinBytes 0#8 s.rn4020CmdByte := rfl
    rw [hrow, toNat_joinBytes_zero]
    exact s.rn4020CmdByte_lt
  case rn4020CmdUnwritten =>
    intro hi hw
    exact congrArg (joinBytes 0#8) (State.rn4020CmdByte_unwritten hi hw)
  case outputRows =>
    intro a ha
    simp only [List.mem_cons, List.not_mem_nil, or_false] at ha
    obtain rfl | rfl | rfl := ha
    all_goals exact hiByte_joinBytes _ _

/-! ## Writes -/

@[simp] theorem State.setOut_setOut (s : State) (o o' : Outputs) : (s.setOut o).setOut o' = s.setOut o' := rfl

@[simp] theorem State.setMmu_setMmu (s : State) (en en' : Bool) (b b' l l' : Word) :
    (s.setMmu en b l).setMmu en' b' l' = s.setMmu en' b' l' := rfl

/-- The two halves written one after the other are the word written (20_memory R55). -/
@[simp] theorem setLoByte_setHiByte (w v : Word) : setLoByte (setHiByte w (hiByte v)) (loByte v) = v := by
  simp [setLoByte, setHiByte]

/-- The low bits of a word are those of its lower byte. -/
theorem getElem_loByte (v : Word) {n : Nat} (h : n < 8) : (loByte v)[n] = v[n] := by
  simp [loByte, BitVec.getLsbD_eq_getElem (show n < 16 by omega)]

theorem setWidth_loByte (v : Word) : (loByte v).setWidth 4 = v.setWidth 4 := by
  apply BitVec.eq_of_getLsbD_eq
  intro i hi
  simp [loByte, hi, show i < 8 by omega]

/-- T and R of a 16-bit write to a `*-Ctrl` row (60_exceptions R225). -/
theorem SerialBits.ofByte_loByte (v : Word) : SerialBits.ofByte (loByte v) = ⟨v.getLsbD 7, v.getLsbD 6⟩ := by
  simp [SerialBits.ofByte, getElem_loByte]

/-- A 16-bit write of uSD-Ctrl: E I R W, and the transfer that R or W starts (60_exceptions R228, R229; log 33). -/
theorem State.writeUsdCtrl_loByte (s : State) (v : Word) :
    s.writeUsdCtrl (loByte v) =
      { s.setOut { s.out with usdCtrl := v.setWidth 4 } with
        usd :=
          if v.getLsbD 1 || v.getLsbD 0 then
            some { toMemory := v.getLsbD 1, memAddr := s.out.usdMemAddr,
                   blkAddr := s.out.usdBlkAddrH ++ s.out.usdBlkAddrL }
          else s.usd } := by
  simp [State.writeUsdCtrl, getElem_loByte, setWidth_loByte]

/-- A byte of the free rows takes a write without effect (93 U22; log 26). -/
theorem State.ioSetByte_free (s : State) {a : Byte} (v : Byte) (h : 0x30 ≤ a.toNat) (h' : a.toNat ≤ 0xEF) :
    s.ioSetByte a v = s := by
  unfold State.ioSetByte
  split <;> first | omega | rfl

/-- So does a word of them. -/
theorem State.ioStore_free (s : State) {a : Byte} (v : Word) (h : 0x30 ≤ a.toNat) (h' : a.toNat ≤ 0xEE) :
    s.ioStore false a v = s := by
  have hsucc : (a + 1#8).toNat = a.toNat + 1 := by bv_omega
  calc s.ioStore false a v
      = (s.ioSetByte a (hiByte v)).ioSetByte (a + 1#8) (loByte v) := rfl
    _ = s.ioSetByte (a + 1#8) (loByte v) := by rw [s.ioSetByte_free _ h (by omega)]
    _ = s := s.ioSetByte_free _ (by omega) (by omega)

/-- Settles O55, row by row: a word port takes its two halves one after the other, a byte port the lower byte alone. -/
theorem portWrites : Obligations.PortWrites := by
  intro s v
  refine ⟨?timer0Period, ?timer0Ctrl, ?timer1Period, ?timer1Ctrl, rfl, ?ft232rlCtrl, rfl, ?tecCtrl, ?usdIdle, ?usdStart,
    ?usdMemAddr, ?usdBlkAddrH, ?usdBlkAddrL, rfl, rfl, ?extHi, rfl, ?rn4020Ctrl, ?rn4020Cmd, ?mmuEn, ?mmuBase, ?mmuLimit,
    ?consoleData, rfl, rfl, rfl, rfl, rfl, rfl, rfl, rfl, rfl, rfl, rfl, rfl, rfl, rfl, rfl, rfl, rfl, rfl, rfl, rfl,
    ?byteRows, ?noEffect, fun a => s.ioStore_free v, fun a => s.ioSetByte_free (loByte v)⟩
  case timer0Period | timer0Ctrl | timer1Period | timer1Ctrl | usdMemAddr | usdBlkAddrH | usdBlkAddrL | mmuBase | mmuLimit
    | consoleData => simp [State.ioStore, State.ioSetByte]
  case ft232rlCtrl | tecCtrl | rn4020Ctrl => simp [State.ioStore, State.ioSetByte, SerialBits.ofByte_loByte]
  case extHi | rn4020Cmd | mmuEn => simp [State.ioStore, State.ioSetByte, getElem_loByte, setWidth_loByte]
  case usdIdle =>
    intro hwrite hread
    refine (s.writeUsdCtrl_loByte v).trans ?_
    rw [hwrite, hread]
    rfl
  case usdStart =>
    intro hstart
    refine (s.writeUsdCtrl_loByte v).trans ?_
    rw [if_pos (by simpa using hstart.symm)]
  case byteRows =>
    intro a ha
    simp only [List.mem_cons, List.not_mem_nil, or_false] at ha
    obtain rfl | rfl | rfl | rfl | rfl | rfl | rfl | rfl | rfl | rfl | rfl | rfl := ha
    all_goals exact ⟨rfl, rfl⟩
  case noEffect =>
    intro a ha
    simp only [List.mem_cons, List.not_mem_nil, or_false] at ha
    obtain rfl | rfl | rfl | rfl | rfl | rfl | rfl | rfl | rfl | rfl := ha
    all_goals exact ⟨rfl, rfl, rfl⟩

end Sys2Proof.Machine
end

section
/-! PROOFS. The decoder and the encoder are inverse to each other. -/

namespace Sys2Proof

open Sys2Proof.Machine

/-! ## Decoding an encoding -/

open Laws.EncodedLength in
/-- The encoding of an instruction is in a defined cell, and has a second word exactly where the length rule says so. -/
theorem encodedLength (i : Instr) : Statement i := by
  cases i with
  | ld rd src | add rd src | sub rd src | cmp rd src | and rd src | or rd src | xor rd src | adds rd src | mul rd src
  | div rd src | mod rd src | mull rd src | divl rd src | shla rd src | shll rd src | shra rd src | shrl rd src =>
    exact of_src _ _ src (by decide) (by decide) rfl
  | st rd l => exact of_loc _ _ l (by decide) (by decide) rfl
  | jz t | jc t | jm t | jo t | jgt t | jge t | jle t | jlt t | jnz t | jnc t | jnm t | jno t | jhi t | jls t | jmp t
  | call t => exact of_target _ _ t (by decide) (by decide) rfl
  | inp rd p | out rd p => exact of_port _ _ p (by decide) (by decide) rfl
  | no | ldFlag rd | push rd | pop rd | ret | reti | ei | di | svc | halt => exact of_other _ _ _ (by decide) rfl

section Families

variable (op : BitVec 5) (rd : Reg)

theorem decodeRdSrc_encodeEa (mk : Reg → Src → Instr) (src : Src) :
    decodeRdSrc mk (encodeEa op rd.bits (encodeSrc src)).1 ((encodeEa op rd.bits (encodeSrc src)).2.getD 0#16) =
      .ok (mk rd src) := by
  simp [decodeRdSrc, encodeEa]

theorem decodePairSrc_encodeEa (mk : Reg → Src → Instr) (src : Src) (hp : rd.evenPair = true) :
    decodePairSrc mk (encodeEa op rd.bits (encodeSrc src)).1 ((encodeEa op rd.bits (encodeSrc src)).2.getD 0#16) =
      .ok (mk rd src) := by
  simp [decodePairSrc, encodeEa, hp]

theorem decodeRdLoc_encodeEa (mk : Reg → Loc → Instr) (l : Loc) :
    decodeRdLoc mk (encodeEa op rd.bits (encodeLoc l)).1 ((encodeEa op rd.bits (encodeLoc l)).2.getD 0#16) =
      .ok (mk rd l) := by
  simp [decodeRdLoc, encodeEa]

theorem decodeRdPort_encodeEa (mk : Reg → Port → Instr) (p : Port) :
    decodeRdPort mk (encodeEa op rd.bits (encodePort p)).1 ((encodeEa op rd.bits (encodePort p)).2.getD 0#16) =
      .ok (mk rd p) := by
  simp [decodeRdPort, encodeEa]

theorem decodeTarget_bind_encodeTarget (t : Target) (k : Target → Except DecodeErr Instr) :
    (decodeTarget (encodeTarget t).1 (encodeTarget t).2.1 ((encodeTarget t).2.2.getD 0#16)).bind k = k t := by
  simp [Except.bind]

theorem decodeRd_encodeOther (mode : BitVec 3) (mk : Reg → Instr) :
    decodeRd mk (encodeOther op mode rd.bits).1 = .ok (mk rd) := by
  simp [decodeRd, encodeOther]

theorem decodeStackReg_encodeOther (mode : BitVec 3) (mk : Reg → Instr) (h : rd ≠ .sp) :
    decodeStackReg mk (encodeOther op mode rd.bits).1 = .ok (mk rd) := by
  simp [decodeStackReg, encodeOther, h]

end Families

/-- The fields of a well-formed instruction decode to it, row by row of the opcode map (30_encoding R98). -/
theorem decodeFields_encodeFields {i : Instr} (hwf : i.wf = true) :
    decodeFields (encodeFields i).1 ((encodeFields i).2.getD 0#16) = .ok i := by
  rw [decodeFields, if_pos (encodedLength i).2]
  cases i with
  | ld rd src | add rd src | sub rd src | cmp rd src | and rd src | or rd src | xor rd src | adds rd src | mul rd src
  | div rd src | mod rd src | shla rd src | shll rd src | shra rd src | shrl rd src =>
    exact decodeRdSrc_encodeEa _ rd _ src
  | mull rd src | divl rd src => exact decodePairSrc_encodeEa _ rd _ src hwf
  | st rd l =>
    have hcol : (encodeLoc l).1 ≠ 4#3 := by cases l <;> simp [encodeLoc]
    exact (if_neg hcol).trans (decodeRdLoc_encodeEa _ rd _ l)
  | inp rd p | out rd p => exact decodeRdPort_encodeEa _ rd _ p
  | jz t | jc t | jm t | jo t | jgt t | jge t | jle t | jlt t | jnz t | jnc t | jnm t | jno t | jhi t | jls t | jmp t
  | call t => exact decodeTarget_bind_encodeTarget t _
  | ldFlag rd => exact decodeRd_encodeOther _ rd _ _
  | push rd | pop rd => exact decodeStackReg_encodeOther _ rd _ _ (by simpa [Instr.wf] using hwf)
  | no | ret | reti | ei | di | svc | halt => rfl

/-- Settles O1: the bytes of an encoding join to its words, and the fields of those decode to the instruction. -/
theorem decodeEncodeRoundTrip : Obligations.DecodeEncodeRoundTrip := by
  intro i rest hwf
  obtain ⟨hlen, hdef⟩ := encodedLength i
  have hdec := decodeFields_encodeFields hwf
  generalize hi : encodeFields i = e at hlen hdef hdec
  obtain ⟨f, _ | w⟩ := e
  · have hlen : hasSecondWord f = false := hlen
    simp [encodeBytes, encode, hi, decodeBytes, hdef, hlen, Except.map, show decodeFields f 0#16 = .ok i from hdec]
  · have hlen : hasSecondWord f = true := hlen
    simp [encodeBytes, encode, hi, decodeBytes, hdef, hlen, Except.map, show decodeFields f w = .ok i from hdec]

/-! ## The rows of the opcode map -/

/-- What the decoder does with the fields of a defined cell (30_encoding R98): for each form of an instruction its
operand decoder, with the encodings and the well-formedness of the instructions that this one makes. -/
inductive DecodeRow (f : Fields) (w : Word) : Except DecodeErr Instr → Prop
  | rdSrc {mk : Reg → Src → Instr} (hea : hasEa f.op5 = true)
      (hmk : ∀ rd src, (mk rd src).wf = true ∧ encodeFields (mk rd src) = encodeEa f.op5 rd.bits (encodeSrc src)) :
      DecodeRow f w (decodeRdSrc mk f w)
  | pairSrc {mk : Reg → Src → Instr} (hea : hasEa f.op5 = true)
      (hmk : ∀ rd src,
        (mk rd src).wf = rd.evenPair ∧ encodeFields (mk rd src) = encodeEa f.op5 rd.bits (encodeSrc src)) :
      DecodeRow f w (decodePairSrc mk f w)
  | rdLoc {mk : Reg → Loc → Instr} (hea : hasEa f.op5 = true) (hmode : f.mode ∉ [2#3, 4#3, 5#3])
      (hmk : ∀ rd l, (mk rd l).wf = true ∧ encodeFields (mk rd l) = encodeEa f.op5 rd.bits (encodeLoc l)) :
      DecodeRow f w (decodeRdLoc mk f w)
  | rdPort {mk : Reg → Port → Instr} (hea : hasEa f.op5 = true) (hmode : f.mode ∈ [0#3, 6#3, 7#3])
      (hmk : ∀ rd p, (mk rd p).wf = true ∧ encodeFields (mk rd p) = encodeEa f.op5 rd.bits (encodePort p)) :
      DecodeRow f w (decodeRdPort mk f w)
  | jump (hop : f.op5 = 20#5) (hmode : f.mode ∈ [0#3, 1#3, 6#3]) :
      DecodeRow f w ((decodeTarget f.mode f.rx w).bind (decodeJump f))
  | call (hop : f.op5 = 21#5) (hmode : f.mode ∈ [0#3, 1#3, 6#3]) :
      DecodeRow f w ((decodeTarget f.mode f.rx w).bind (decodeCall f))
  | rd {mk : Reg → Instr} (hone : hasSecondWord f = false)
      (hmk : ∀ rd, (mk rd).wf = true ∧ encodeFields (mk rd) = encodeOther f.op5 f.mode rd.bits) :
      DecodeRow f w (decodeRd mk f)
  | stackReg {mk : Reg → Instr} (hone : hasSecondWord f = false)
      (hmk : ∀ rd, (mk rd).wf = (rd != .sp) ∧ encodeFields (mk rd) = encodeOther f.op5 f.mode rd.bits) :
      DecodeRow f w (decodeStackReg mk f)
  | plain {i : Instr} (hone : hasSecondWord f = false)
      (hi : i.wf = true ∧ encodeFields i = encodeOther f.op5 f.mode 0#4) :
      DecodeRow f w (decodePlain i f)

/-- A field that the decoder matches by its number. -/
theorem eq_ofNat_of_toNat {k n : Nat} {b : BitVec k} (h : b.toNat = n) : b = BitVec.ofNat k n := by
  simp [← h]

/-- The rows of the opcode map without a cell. -/
theorem op5_of_opDefined {op : BitVec 5} {m : BitVec 3} (h : opDefined op m = true) :
    op.toNat ∉ [15, 25, 27, 29] := by
  revert h; revert op m; decide

/-- The columns of the rows that are not full (30_encoding R98, R103). -/
theorem mode_of_opDefined {op : BitVec 5} {m : BitVec 3} (h : opDefined op m = true) :
    (op = 2#5 → m ∉ [2#3, 5#3]) ∧ (op = 20#5 ∨ op = 21#5 → m ∈ [0#3, 1#3, 6#3]) ∧
      (op = 22#5 ∨ op = 23#5 → m ∈ [0#3, 6#3, 7#3]) ∧ (op ∈ [0#5, 30#5] → m = 0#3) ∧
      (op ∈ [24#5, 26#5, 28#5] → m = 0#3 ∨ m = 4#3) ∧ (op = 31#5 → m = 7#3) := by
  revert h; revert op m; decide

/-- A defined cell is decoded by the row it is in. The cases are the arms of `decodeFields`, in its order. -/
theorem decodeFields_row {f : Fields} (w : Word) (hdef : opDefined f.op5 f.mode = true) :
    DecodeRow f w (decodeFields f w) := by
  obtain ⟨op, m, rd, rx⟩ := f
  have hblank : op.toNat ∉ [15, 25, 27, 29] := op5_of_opDefined hdef
  obtain ⟨hst, hjump, hport, hzero, htwo, hhalt⟩ := mode_of_opDefined (op := op) (m := m) hdef
  rw [decodeFields, if_pos hdef]
  split
  -- OP Rd EA
  case h_2 hn | h_4 hn | h_5 hn | h_6 hn | h_7 hn | h_8 hn | h_9 hn | h_10 hn | h_11 hn | h_12 hn | h_13 hn | h_16 hn
    | h_17 hn | h_18 hn | h_19 hn =>
    obtain rfl := eq_ofNat_of_toNat hn
    exact .rdSrc rfl fun _ _ => ⟨rfl, rfl⟩
  -- MULL, DIVL
  case h_14 hn | h_15 hn =>
    obtain rfl := eq_ofNat_of_toNat hn
    exact .pairSrc rfl fun _ _ => ⟨rfl, rfl⟩
  -- LD Rd,FLAG, ST
  case h_3 hn =>
    obtain rfl := eq_ofNat_of_toNat hn
    split
    · next hm =>
      obtain rfl : m = 4#3 := hm
      exact .rd rfl fun _ => ⟨rfl, rfl⟩
    · next hm => exact .rdLoc rfl (by simpa [hm] using hst rfl) fun _ _ => ⟨rfl, rfl⟩
  -- the jumps
  case h_20 hn =>
    obtain rfl := eq_ofNat_of_toNat hn
    exact .jump rfl (hjump (.inl rfl))
  -- CALL
  case h_21 hn =>
    obtain rfl := eq_ofNat_of_toNat hn
    exact .call rfl (hjump (.inr rfl))
  -- IN, OUT
  case h_22 hn | h_23 hn =>
    obtain rfl := eq_ofNat_of_toNat hn
    exact .rdPort rfl (hport (by decide)) fun _ _ => ⟨rfl, rfl⟩
  -- PUSH, POP
  case h_24 hn =>
    obtain rfl := eq_ofNat_of_toNat hn
    obtain rfl | rfl := htwo (by decide)
    · exact .stackReg rfl fun _ => ⟨rfl, rfl⟩
    · exact .stackReg rfl fun _ => ⟨rfl, rfl⟩
  -- RET, RETI, EI, DI
  case h_25 hn | h_26 hn =>
    obtain rfl := eq_ofNat_of_toNat hn
    obtain rfl | rfl := htwo (by decide)
    · exact .plain rfl ⟨rfl, rfl⟩
    · exact .plain rfl ⟨rfl, rfl⟩
  -- NO, SVC
  case h_1 hn | h_27 hn =>
    obtain rfl := eq_ofNat_of_toNat hn
    obtain rfl := hzero (by decide)
    exact .plain rfl ⟨rfl, rfl⟩
  -- HALT
  case h_28 hn =>
    obtain rfl := eq_ofNat_of_toNat hn
    obtain rfl := hhalt rfl
    exact .plain rfl ⟨rfl, rfl⟩
  -- no row
  case h_29 =>
    simp only [List.mem_cons, List.not_mem_nil, or_false, not_or] at hblank
    have hlt := op.isLt
    simp only [imp_false] at *
    omega

/-! ## What decodes is an encoding -/

section Rows

variable {f : Fields} {w : Word} {i : Instr}

/-- An operand field and the word after it, put back beside the opcode and Rd. -/
theorem encodeEa_eq {rd : BitVec 4} {ea : BitVec 3 × BitVec 4 × Option Word} (hea : hasEa f.op5 = true)
    (hrd : f.rd = rd) (h : ea = (f.mode, f.rx, if f.mode.toNat ≤ 2 then some w else none)) :
    encodeEa f.op5 rd ea = (f, if hasSecondWord f then some w else none) := by
  subst hrd h
  simp [encodeEa, hasSecondWord, hea]

/-- The *8 and *9 formats put back (30_encoding R93). -/
theorem encodeOther_eq {rd : BitVec 4} (hone : hasSecondWord f = false) (hrd : f.rd = rd) (hrx : f.rx = 0#4) :
    encodeOther f.op5 f.mode rd = (f, if hasSecondWord f then some w else none) := by
  subst hrd
  simp [encodeOther, hone, ← hrx]

/-- `OP Rd EA` decodes only to a register with the number Rd and an operand that the other fields encode. -/
theorem decodeRdSrc_inv {mk : Reg → Src → Instr} (h : decodeRdSrc mk f w = .ok i) :
    ∃ rd src, decodeReg f.rd = .ok rd ∧ decodeSrc f.mode f.rx w = .ok src ∧ i = mk rd src := by
  rw [decodeRdSrc] at h
  split at h <;> cases h
  exact ⟨_, _, ‹_›, ‹_›, rfl⟩

theorem decodePairSrc_inv {mk : Reg → Src → Instr} (h : decodePairSrc mk f w = .ok i) :
    ∃ rd src, decodeReg f.rd = .ok rd ∧ rd.evenPair = true ∧ decodeSrc f.mode f.rx w = .ok src ∧ i = mk rd src := by
  rw [decodePairSrc] at h
  split at h
  · split at h <;> cases h
    exact ⟨_, _, ‹_›, ‹_›, ‹_›, rfl⟩
  · cases h
  · cases h

theorem decodeRdLoc_inv {mk : Reg → Loc → Instr} (h : decodeRdLoc mk f w = .ok i) :
    ∃ rd l, decodeReg f.rd = .ok rd ∧ decodeLoc f.mode f.rx w = .ok l ∧ i = mk rd l := by
  rw [decodeRdLoc] at h
  split at h <;> cases h
  exact ⟨_, _, ‹_›, ‹_›, rfl⟩

theorem decodeRdPort_inv {mk : Reg → Port → Instr} (h : decodeRdPort mk f w = .ok i) :
    ∃ rd p, decodeReg f.rd = .ok rd ∧ decodePort f.mode f.rx w = .ok p ∧ i = mk rd p := by
  rw [decodeRdPort] at h
  split at h <;> cases h
  exact ⟨_, _, ‹_›, ‹_›, rfl⟩

theorem decodeRd_inv {mk : Reg → Instr} (h : decodeRd mk f = .ok i) :
    ∃ rd, decodeReg f.rd = .ok rd ∧ f.rx = 0#4 ∧ i = mk rd := by
  rw [decodeRd] at h
  split at h
  · obtain ⟨hrx, rfl⟩ := decodeZero_inv h
    exact ⟨_, ‹_›, hrx, rfl⟩
  · cases h

theorem decodeStackReg_inv {mk : Reg → Instr} (h : decodeStackReg mk f = .ok i) :
    ∃ rd, decodeReg f.rd = .ok rd ∧ rd ≠ .sp ∧ f.rx = 0#4 ∧ i = mk rd := by
  rw [decodeStackReg] at h
  split at h
  · split at h
    · cases h
    · obtain ⟨hrx, rfl⟩ := decodeZero_inv h
      exact ⟨_, ‹_›, ‹_›, hrx, rfl⟩
  · cases h

theorem decodePlain_inv {j : Instr} (h : decodePlain j f = .ok i) : f.rd = 0#4 ∧ f.rx = 0#4 ∧ i = j := by
  rw [decodePlain] at h
  split at h
  · exact ⟨‹_›, decodeZero_inv h⟩
  · cases h

theorem decodeTarget_bind_inv {k : Target → Except DecodeErr Instr}
    (h : (decodeTarget f.mode f.rx w).bind k = .ok i) :
    ∃ t, decodeTarget f.mode f.rx w = .ok t ∧ k t = .ok i := by
  cases ht : decodeTarget f.mode f.rx w with
  | error e => rw [ht] at h; cases h
  | ok t => rw [ht] at h; exact ⟨t, rfl, h⟩

/-- A condition field that decodes is that of the jump it decodes to (30_encoding R97). -/
theorem decodeJump_inv {t : Target} (h : decodeJump f t = .ok i) :
    i.wf = true ∧ encodeFields i = encodeEa 20#5 f.rd (encodeTarget t) := by
  obtain ⟨op, m, rd, rx⟩ := f
  rw [decodeJump] at h
  split at h <;> cases h
  all_goals
    next hn =>
      obtain rfl := eq_ofNat_of_toNat hn
      exact ⟨rfl, rfl⟩

/-- An instruction that a row decodes is well formed and has the row's fields for its encoding. -/
theorem DecodeRow.ok_inv {r : Except DecodeErr Instr} (h : DecodeRow f w r) (hr : r = .ok i) :
    i.wf = true ∧ encodeFields i = (f, if hasSecondWord f then some w else none) := by
  cases h with
  | rdSrc hea hmk =>
    obtain ⟨rd, src, hrd, hsrc, rfl⟩ := decodeRdSrc_inv hr
    exact ⟨(hmk rd src).1, (hmk rd src).2.trans (encodeEa_eq hea (decodeReg_inv hrd) (decodeSrc_inv hsrc))⟩
  | pairSrc hea hmk =>
    obtain ⟨rd, src, hrd, hpair, hsrc, rfl⟩ := decodePairSrc_inv hr
    exact ⟨(hmk rd src).1.trans hpair,
      (hmk rd src).2.trans (encodeEa_eq hea (decodeReg_inv hrd) (decodeSrc_inv hsrc))⟩
  | rdLoc hea _ hmk =>
    obtain ⟨rd, l, hrd, hl, rfl⟩ := decodeRdLoc_inv hr
    exact ⟨(hmk rd l).1, (hmk rd l).2.trans (encodeEa_eq hea (decodeReg_inv hrd) (decodeLoc_inv hl))⟩
  | rdPort hea _ hmk =>
    obtain ⟨rd, p, hrd, hp, rfl⟩ := decodeRdPort_inv hr
    exact ⟨(hmk rd p).1, (hmk rd p).2.trans (encodeEa_eq hea (decodeReg_inv hrd) (decodePort_inv hp))⟩
  | jump hop _ =>
    obtain ⟨t, ht, hjump⟩ := decodeTarget_bind_inv hr
    obtain ⟨hwf, henc⟩ := decodeJump_inv hjump
    exact ⟨hwf, by rw [henc, ← hop]; exact encodeEa_eq (by rw [hop]; rfl) rfl (decodeTarget_inv ht)⟩
  | call hop _ =>
    obtain ⟨t, ht, hcall⟩ := decodeTarget_bind_inv hr
    obtain ⟨hrd, rfl⟩ := decodeZero_inv hcall
    refine ⟨rfl, ?_⟩
    rw [encodeFields, ← hop]
    exact encodeEa_eq (by rw [hop]; rfl) hrd (decodeTarget_inv ht)
  | rd hone hmk =>
    obtain ⟨rd, hrd, hrx, rfl⟩ := decodeRd_inv hr
    exact ⟨(hmk rd).1, (hmk rd).2.trans (encodeOther_eq hone (decodeReg_inv hrd) hrx)⟩
  | stackReg hone hmk =>
    obtain ⟨rd, hrd, hsp, hrx, rfl⟩ := decodeStackReg_inv hr
    exact ⟨(hmk rd).1.trans (by simpa using hsp), (hmk rd).2.trans (encodeOther_eq hone (decodeReg_inv hrd) hrx)⟩
  | plain hone hi =>
    obtain ⟨hrd, hrx, rfl⟩ := decodePlain_inv hr
    exact ⟨hi.1, hi.2.trans (encodeOther_eq hone hrd hrx)⟩

end Rows

/-- Fields that decode are of a defined cell. -/
theorem opDefined_of_decodeFields {f : Fields} {w : Word} {i : Instr} (h : decodeFields f w = .ok i) :
    opDefined f.op5 f.mode = true := by
  by_contra hdef
  rw [decodeFields, if_neg hdef] at h
  cases h

/-- Fields that decode are those of the encoding, with the second word where there is one. -/
theorem decodeFields_inv {f : Fields} {w : Word} {i : Instr} (h : decodeFields f w = .ok i) :
    i.wf = true ∧ encodeFields i = (f, if hasSecondWord f then some w else none) :=
  (decodeFields_row w (opDefined_of_decodeFields h)).ok_inv h

/-- Everything the bytes of an instruction can be: a first word, and a second one where the length rule says so. -/
theorem decodeBytes_inv {bs rest : List Byte} {i : Instr} (h : decodeBytes bs = .ok (i, rest)) :
    ∃ w1 w2 : Word, decode w1 w2 = .ok i ∧
      bs = hiByte w1 :: loByte w1 ::
        (if hasSecondWord (Fields.ofWord w1) then hiByte w2 :: loByte w2 :: rest else rest) := by
  have map_inv : ∀ {x : Except DecodeErr Instr} {l : List Byte}, (x.map fun i => (i, l)) = .ok (i, rest) →
      x = .ok i ∧ l = rest := by
    intro x l hx
    cases x <;> cases hx
    exact ⟨rfl, rfl⟩
  rw [decodeBytes.eq_def] at h
  split at h
  · next b0 b1 tl =>
    dsimp only at h
    split at h
    · split at h
      · next htwo =>
        split at h
        · next b2 b3 tl' =>
          obtain ⟨hdec, rfl⟩ := map_inv h
          exact ⟨joinBytes b0 b1, joinBytes b2 b3, hdec, by simp [htwo]⟩
        · cases h
      · next hone =>
        obtain ⟨hdec, rfl⟩ := map_inv h
        exact ⟨joinBytes b0 b1, 0#16, hdec, by simp [hone]⟩
    · cases h
  · cases h

/-- Settles O2: the words of the bytes have the fields of the encoding, and no other word has them. -/
theorem decodedBytesAreTheEncoding : Obligations.DecodedBytesAreTheEncoding := by
  intro bs rest i h
  obtain ⟨w1, w2, hdec, rfl⟩ := decodeBytes_inv h
  obtain ⟨hwf, henc⟩ := decodeFields_inv hdec
  refine ⟨hwf, ?_⟩
  cases htwo : hasSecondWord (Fields.ofWord w1) <;> simp [encodeBytes, encode, henc, htwo]

/-- Settles O3: the ten words decode as the table says. -/
theorem specWordsDecode : Obligations.SpecWordsDecode := by
  unfold Obligations.SpecWordsDecode
  decide

end Sys2Proof
end

section
/-! PROOFS. Which words are undefined, which are refused, and what the step that fetches one of them does. -/

namespace Sys2Proof

open Sys2Proof.Machine

/-! ## Why fields of a defined cell do not decode -/

/-- The reasons that refuse a word of a defined opcode (30_encoding R100-R102, 10_state R25, 46_stack_return R186,
R187). -/
def fieldRefusals : List DecodeErr := [.mustBeZero, .blankCondition, .registerPair, .pcOperand, .stackPointerOperand]

section Refusals

variable {f : Fields} {w : Word} {e : DecodeErr}

theorem decodeReg_refusal {b : BitVec 4} (h : decodeReg b = .error e) : e ∈ fieldRefusals := by
  rw [decodeReg_error h]; decide

theorem decodeReg_map_refusal {α : Type} {b : BitVec 4} {k : Reg → α} (h : (decodeReg b).map k = .error e) :
    e ∈ fieldRefusals := by
  cases hr : decodeReg b with
  | error x => rw [hr] at h; cases h; exact decodeReg_refusal hr
  | ok r => rw [hr] at h; cases h

theorem decodeZero_refusal {α : Type} {b : BitVec 4} {a : α} (h : decodeZero b a = .error e) : e ∈ fieldRefusals := by
  rw [(decodeZero_error h).2]; decide

variable {m : BitVec 3} {rx : BitVec 4}

theorem decodeSrc_refusal (h : decodeSrc m rx w = .error e) : e ∈ fieldRefusals := by
  rcases mode_cases m with rfl | rfl | rfl | rfl | rfl | rfl | rfl | rfl
  · exact decodeZero_refusal h
  · exact decodeReg_map_refusal h
  · exact decodeZero_refusal h
  · cases h
  · exact decodeReg_map_refusal h
  · cases h
  · exact decodeReg_map_refusal h
  · exact decodeReg_map_refusal h

/-- In the modes of ST. -/
theorem decodeLoc_refusal (hm : m ∉ [2#3, 4#3, 5#3]) (h : decodeLoc m rx w = .error e) : e ∈ fieldRefusals := by
  have hcases : ∀ m : BitVec 3, m ∉ [2#3, 4#3, 5#3] → m = 0#3 ∨ m = 1#3 ∨ m = 3#3 ∨ m = 6#3 ∨ m = 7#3 := by decide
  rcases hcases m hm with rfl | rfl | rfl | rfl | rfl
  · exact decodeZero_refusal h
  · exact decodeReg_map_refusal h
  · cases h
  · exact decodeReg_map_refusal h
  · exact decodeReg_map_refusal h

/-- In the modes of the jumps and CALL. -/
theorem decodeTarget_refusal (hm : m ∈ [0#3, 1#3, 6#3]) (h : decodeTarget m rx w = .error e) : e ∈ fieldRefusals := by
  simp only [List.mem_cons, List.not_mem_nil, or_false] at hm
  rcases hm with rfl | rfl | rfl
  · exact decodeZero_refusal h
  · exact decodeReg_map_refusal h
  · exact decodeReg_map_refusal h

/-- In the modes of IN and OUT. -/
theorem decodePort_refusal (hm : m ∈ [0#3, 6#3, 7#3]) (h : decodePort m rx w = .error e) : e ∈ fieldRefusals := by
  simp only [List.mem_cons, List.not_mem_nil, or_false] at hm
  rcases hm with rfl | rfl | rfl
  · exact decodeZero_refusal h
  · exact decodeReg_map_refusal h
  · exact decodeReg_map_refusal h

theorem decodeTarget_bind_refusal {k : Target → Except DecodeErr Instr} (hm : f.mode ∈ [0#3, 1#3, 6#3])
    (hk : ∀ t, k t = .error e → e ∈ fieldRefusals) (h : (decodeTarget f.mode f.rx w).bind k = .error e) :
    e ∈ fieldRefusals := by
  cases ht : decodeTarget f.mode f.rx w with
  | error x => rw [ht] at h; cases h; exact decodeTarget_refusal hm ht
  | ok t => rw [ht] at h; exact hk t h

theorem decodeJump_refusal {t : Target} (h : decodeJump f t = .error e) : e ∈ fieldRefusals := by
  rw [decodeJump] at h
  split at h <;> cases h
  decide

/-- A defined cell that does not decode has a field that the spec refuses. -/
theorem DecodeRow.error_inv {r : Except DecodeErr Instr} (h : DecodeRow f w r) (hr : r = .error e) :
    e ∈ fieldRefusals := by
  cases h with
  | rdSrc =>
    rw [decodeRdSrc] at hr
    split at hr <;> cases hr
    · exact decodeReg_refusal ‹_›
    · exact decodeSrc_refusal ‹_›
  | pairSrc =>
    rw [decodePairSrc] at hr
    split at hr
    · split at hr <;> cases hr
      decide
    · cases hr; exact decodeReg_refusal ‹_›
    · cases hr; exact decodeSrc_refusal ‹_›
  | rdLoc _ hmode =>
    rw [decodeRdLoc] at hr
    split at hr <;> cases hr
    · exact decodeReg_refusal ‹_›
    · exact decodeLoc_refusal hmode ‹_›
  | rdPort _ hmode =>
    rw [decodeRdPort] at hr
    split at hr <;> cases hr
    · exact decodeReg_refusal ‹_›
    · exact decodePort_refusal hmode ‹_›
  | jump _ hmode => exact decodeTarget_bind_refusal hmode (fun _ => decodeJump_refusal) hr
  | call _ hmode => exact decodeTarget_bind_refusal hmode (fun _ => decodeZero_refusal) hr
  | rd =>
    rw [decodeRd] at hr
    split at hr
    · exact decodeZero_refusal hr
    · cases hr; exact decodeReg_refusal ‹_›
  | stackReg =>
    rw [decodeStackReg] at hr
    split at hr
    · split at hr
      · cases hr; decide
      · exact decodeZero_refusal hr
    · cases hr; exact decodeReg_refusal ‹_›
  | plain =>
    rw [decodePlain] at hr
    split at hr
    · exact decodeZero_refusal hr
    · cases hr; decide

end Refusals

/-! ## Blank cells -/

/-- The blank cells of the opcode map are those that 30_encoding R99 lists. -/
theorem opDefined_iff (op : BitVec 5) (m : BitVec 3) : opDefined op m = true ↔ op ++ m ∉ blankOpcodes := by
  revert op m; decide

theorem opDefined_ofWord_iff (w : Word) :
    opDefined (Fields.ofWord w).op5 (Fields.ofWord w).mode = true ↔ hiByte w ∉ blankOpcodes := by
  rw [hiByte_eq_fields, opDefined_iff]

/-- A word of a blank cell is undefined whatever follows it (30_encoding R99). -/
theorem decode_of_blank {w1 : Word} (h : hiByte w1 ∈ blankOpcodes) (w2 : Word) :
    decode w1 w2 = .error .undefinedOpcode := by
  rw [decode, decodeFields, if_neg (by rw [opDefined_ofWord_iff]; exact not_not_intro h)]

/-- A word of a defined cell that is no instruction is refused for one of its fields. -/
theorem decode_refusal {w1 w2 : Word} {e : DecodeErr} (hw : hiByte w1 ∉ blankOpcodes) (h : decode w1 w2 = .error e) :
    e ∈ fieldRefusals :=
  (decodeFields_row w2 ((opDefined_ofWord_iff w1).mpr hw)).error_inv h

/-- Settles O4: a blank cell is undefined, and the fields of a defined one are refused under other names. -/
theorem blankOpcodesAreUndefined : Obligations.BlankOpcodesAreUndefined := by
  intro w1 w2
  refine ⟨fun h => ?_, fun h => decode_of_blank h w2⟩
  by_contra hw
  exact absurd (decode_refusal hw h) (by decide)

/-! ## Refused words -/

/-- The lower byte of the first word is Rd and the low field. -/
theorem loByte_eq_fields (w : Word) : loByte w = (Fields.ofWord w).rd ++ (Fields.ofWord w).rx := by
  apply BitVec.eq_of_getLsbD_eq
  intro i hi
  change BitVec.getLsbD (BitVec.extractLsb' 0 8 w) i =
    BitVec.getLsbD (BitVec.extractLsb' 4 4 w ++ BitVec.extractLsb' 0 4 w) i
  rw [BitVec.getLsbD_append]
  simp only [BitVec.getLsbD_extractLsb']
  split
  · next h => simp [hi, h]
  · next h =>
    have e1 : i - 4 < 4 := by omega
    have e2 : 4 + (i - 4) = 0 + i := by omega
    simp [hi, e1, e2]

/-- No register operand has the number Fh (10_state R25). -/
theorem Reg.bits_ne_pc (r : Reg) : r.bits ≠ 0xF#4 := by cases r <;> decide

/-- The fields of a first word that holds nothing the spec refuses (30_encoding R100-R102, 10_state R25, 46_stack_return
R186, R187). -/
structure FieldsOk (f : Fields) : Prop where
  lowZero : f.mode = 0#3 ∨ f.mode = 2#3 → f.rx = 0#4
  star8 : f.op5 ++ f.mode ∈ [0x14#8, 0xC0#8, 0xC4#8] → f.rx = 0#4
  star9 : f.op5 ++ f.mode ∈ [0x00#8, 0xD0#8, 0xD4#8, 0xE0#8, 0xE4#8, 0xF0#8, 0xFF#8] → f.rd = 0#4 ∧ f.rx = 0#4
  call : f.op5 ++ f.mode ∈ [0xA8#8, 0xA9#8, 0xAE#8] → f.rd = 0#4
  condition : f.op5 ++ f.mode ∈ [0xA0#8, 0xA1#8, 0xA6#8] → f.rd ≠ 0xD#4
  rdReg : f.op5 ++ f.mode ∉ [0xA0#8, 0xA1#8, 0xA6#8] → f.rd ≠ 0xF#4
  lowReg : f.mode ∈ [1#3, 4#3, 6#3, 7#3] → f.rx ≠ 0xF#4
  pair : f.op5 ∈ [13#5, 14#5] → f.rd ∈ [0x0#4, 0x2#4, 0x4#4, 0x6#4, 0x8#4, 0xA#4]
  stackReg : f.op5 ++ f.mode ∈ [0xC0#8, 0xC4#8] → f.rd ≠ 0xD#4

namespace FieldsOk

theorem not_refusedWord {w : Word} (h : FieldsOk (Fields.ofWord w)) : ¬ RefusedWord w := by
  simp only [RefusedWord, hiByte_eq_fields, loByte_eq_fields]
  rintro (⟨hm, hrx⟩ | ⟨hc, hrx⟩ | ⟨hc, hlo⟩ | ⟨hc, hrd⟩ | ⟨hc, hrd⟩ | ⟨hc, hrd⟩ | ⟨hm, hrx⟩ | ⟨hop, hrd⟩ | ⟨hc, hrd⟩)
  · exact hrx (h.lowZero hm)
  · exact hrx (h.star8 hc)
  · obtain ⟨hrd, hrx⟩ := h.star9 hc
    exact hlo (by rw [hrd, hrx]; rfl)
  · exact hrd (h.call hc)
  · exact h.condition hc hrd
  · exact h.rdReg hc hrd
  · exact h.lowReg hm hrx
  · exact hrd (h.pair hop)
  · exact h.stackReg hc hrd

/-- The low field of a mode holds what the mode asks for: zero in modes 0 and 2 (30_encoding R100), a register number in
modes 1, 4, 6 and 7 (10_state R25). -/
def LowField (m : BitVec 3) (rx : BitVec 4) : Prop :=
  (m = 0#3 ∨ m = 2#3 → rx = 0#4) ∧ (m ∈ [1#3, 4#3, 6#3, 7#3] → rx ≠ 0xF#4)

theorem lowField_encodeLoc (l : Loc) : LowField (encodeLoc l).1 (encodeLoc l).2.1 := by
  cases l <;> simp [LowField, encodeLoc, Reg.bits_ne_pc]

theorem lowField_encodeSrc (src : Src) : LowField (encodeSrc src).1 (encodeSrc src).2.1 := by
  cases src with
  | loc l => exact lowField_encodeLoc l
  | imm _ | reg _ | imm4 _ => simp [LowField, encodeSrc, Reg.bits_ne_pc]

theorem lowField_encodeTarget (t : Target) : LowField (encodeTarget t).1 (encodeTarget t).2.1 := by
  cases t <;> simp [LowField, encodeTarget, Reg.bits_ne_pc]

theorem lowField_encodePort (p : Port) : LowField (encodePort p).1 (encodePort p).2.1 := by
  cases p <;> simp [LowField, encodePort, Reg.bits_ne_pc]

/-- The cells whose Rd or low field is not simply a register and an operand: the *8 and *9 formats, CALL and the jumps
(30_encoding R93, R96, R97). -/
def fixedFieldCells : List Byte :=
  [0x14#8, 0xC0#8, 0xC4#8, 0x00#8, 0xD0#8, 0xD4#8, 0xE0#8, 0xE4#8, 0xF0#8, 0xFF#8, 0xA8#8, 0xA9#8, 0xAE#8,
    0xA0#8, 0xA1#8, 0xA6#8]

/-- A register Rd and an operand. -/
theorem of_rd {op : BitVec 5} {rd : Reg} {ea : BitVec 3 × BitVec 4 × Option Word} (hlow : LowField ea.1 ea.2.1)
    (hcell : op ++ ea.1 ∉ fixedFieldCells) (hpair : op ∉ [13#5, 14#5] ∨ rd.evenPair = true) :
    FieldsOk (encodeEa op rd.bits ea).1 := by
  have hnot : ∀ {l : List Byte}, l ⊆ fixedFieldCells → op ++ ea.1 ∉ l := fun hl h => hcell (hl h)
  have heven : rd.evenPair = true → rd.bits ∈ [0x0#4, 0x2#4, 0x4#4, 0x6#4, 0x8#4, 0xA#4] := by cases rd <;> decide
  exact {
    lowZero := hlow.1
    lowReg := hlow.2
    star8 := fun h => absurd h (hnot (by decide))
    star9 := fun h => absurd h (hnot (by decide))
    call := fun h => absurd h (hnot (by decide))
    condition := fun h => absurd h (hnot (by decide))
    stackReg := fun h => absurd h (hnot (by decide))
    rdReg := fun _ => rd.bits_ne_pc
    pair := fun h => heven (hpair.resolve_left (not_not_intro h)) }

/-- A jump with a condition that is not Dh. -/
theorem of_jump {rd : BitVec 4} (t : Target) (hrd : rd ≠ 0xD#4) : FieldsOk (encodeEa 20#5 rd (encodeTarget t)).1 := by
  have hcell : 20#5 ++ (encodeTarget t).1 ∈ [0xA0#8, 0xA1#8, 0xA6#8] := by cases t <;> simp [encodeTarget]
  have hnot : ∀ {l : List Byte}, (∀ c ∈ [0xA0#8, 0xA1#8, 0xA6#8], c ∉ l) → 20#5 ++ (encodeTarget t).1 ∉ l :=
    fun hl => hl _ hcell
  exact {
    lowZero := (lowField_encodeTarget t).1
    lowReg := (lowField_encodeTarget t).2
    star8 := fun h => absurd h (hnot (by decide))
    star9 := fun h => absurd h (hnot (by decide))
    call := fun h => absurd h (hnot (by decide))
    stackReg := fun h => absurd h (hnot (by decide))
    rdReg := fun h => absurd hcell h
    condition := fun _ => hrd
    pair := fun h => absurd h (show 20#5 ∉ [13#5, 14#5] by decide) }

/-- CALL, with Rd zero. -/
theorem of_call (t : Target) : FieldsOk (encodeEa 21#5 0#4 (encodeTarget t)).1 := by
  have hcell : 21#5 ++ (encodeTarget t).1 ∈ [0xA8#8, 0xA9#8, 0xAE#8] := by cases t <;> simp [encodeTarget]
  have hnot : ∀ {l : List Byte}, (∀ c ∈ [0xA8#8, 0xA9#8, 0xAE#8], c ∉ l) → 21#5 ++ (encodeTarget t).1 ∉ l :=
    fun hl => hl _ hcell
  exact {
    lowZero := (lowField_encodeTarget t).1
    lowReg := (lowField_encodeTarget t).2
    star8 := fun h => absurd h (hnot (by decide))
    star9 := fun h => absurd h (hnot (by decide))
    call := fun _ => rfl
    stackReg := fun h => absurd h (hnot (by decide))
    rdReg := fun _ => show 0#4 ≠ 0xF#4 by decide
    condition := fun h => absurd h (hnot (by decide))
    pair := fun h => absurd h (show 21#5 ∉ [13#5, 14#5] by decide) }

/-- The *8 format: a register Rd, which PUSH and POP do not let be SP. -/
theorem of_star8 {op : BitVec 5} {m : BitVec 3} {rd : Reg} (hcell : op ++ m ∈ [0x14#8, 0xC0#8, 0xC4#8])
    (hsp : op ++ m ∉ [0xC0#8, 0xC4#8] ∨ rd ≠ .sp) : FieldsOk (encodeOther op m rd.bits).1 := by
  have hnot : ∀ {l : List Byte}, (∀ c ∈ [0x14#8, 0xC0#8, 0xC4#8], c ∉ l) → op ++ m ∉ l := fun hl => hl _ hcell
  have hop : ∀ (op : BitVec 5) (m : BitVec 3), op ++ m ∈ [0x14#8, 0xC0#8, 0xC4#8] → op ∉ [13#5, 14#5] := by decide
  have hbits : rd ≠ .sp → rd.bits ≠ 0xD#4 := by cases rd <;> decide
  exact {
    lowZero := fun _ => rfl
    lowReg := fun _ => show 0#4 ≠ 0xF#4 by decide
    star8 := fun _ => rfl
    star9 := fun h => absurd h (hnot (by decide))
    call := fun h => absurd h (hnot (by decide))
    stackReg := fun h => hbits (hsp.resolve_left (not_not_intro h))
    rdReg := fun _ => rd.bits_ne_pc
    condition := fun h => absurd h (hnot (by decide))
    pair := fun h => absurd h (hop op m hcell) }

/-- The *9 format. -/
theorem of_star9 {op : BitVec 5} {m : BitVec 3} (hop : op ∉ [13#5, 14#5]) : FieldsOk (encodeOther op m 0#4).1 where
  lowZero _ := rfl
  lowReg _ := show 0#4 ≠ 0xF#4 by decide
  star8 _ := rfl
  star9 _ := ⟨rfl, rfl⟩
  call _ := rfl
  stackReg _ := show 0#4 ≠ 0xD#4 by decide
  rdReg _ := show 0#4 ≠ 0xF#4 by decide
  condition _ := show 0#4 ≠ 0xD#4 by decide
  pair h := absurd h hop

end FieldsOk

open FieldsOk in
/-- The encoding of a well-formed instruction holds no field that the spec refuses. -/
theorem fieldsOk_encodeFields {i : Instr} (hwf : i.wf = true) : FieldsOk (encodeFields i).1 := by
  cases i with
  | ld rd src | add rd src | sub rd src | cmp rd src | and rd src | or rd src | xor rd src | adds rd src | mul rd src
  | div rd src | mod rd src | shla rd src | shll rd src | shra rd src | shrl rd src =>
    exact of_rd (lowField_encodeSrc src) ((by decide : ∀ m : BitVec 3, _ ++ m ∉ fixedFieldCells) _) (.inl (by decide))
  | mull rd src | divl rd src =>
    exact of_rd (lowField_encodeSrc src) ((by decide : ∀ m : BitVec 3, _ ++ m ∉ fixedFieldCells) _) (.inr hwf)
  | inp rd p | out rd p =>
    exact of_rd (lowField_encodePort p) ((by decide : ∀ m : BitVec 3, _ ++ m ∉ fixedFieldCells) _) (.inl (by decide))
  | st rd l =>
    have hcell : 2#5 ++ (encodeLoc l).1 ∉ fixedFieldCells := by cases l <;> simp [encodeLoc, fixedFieldCells]
    exact of_rd (lowField_encodeLoc l) hcell (.inl (by decide))
  | jz t | jc t | jm t | jo t | jgt t | jge t | jle t | jlt t | jnz t | jnc t | jnm t | jno t | jhi t | jls t | jmp t =>
    exact of_jump t (by decide)
  | call t => exact of_call t
  | ldFlag rd => exact of_star8 (by decide) (.inl (by decide))
  | push rd | pop rd => exact of_star8 (by decide) (.inr (by simpa [Instr.wf] using hwf))
  | no | ret | reti | ei | di | svc | halt => exact of_star9 (by decide)

/-- A word with a field that the spec refuses begins no instruction. -/
theorem decode_ne_ok_of_refused {w1 : Word} (h : RefusedWord w1) (w2 : Word) (i : Instr) : decode w1 w2 ≠ .ok i := by
  intro hdec
  obtain ⟨hwf, henc⟩ := decodeFields_inv hdec
  have hok : FieldsOk (Fields.ofWord w1) := by simpa [henc] using fieldsOk_encodeFields hwf
  exact hok.not_refusedWord h

/-! ## The steps that fetch them -/

namespace Machine

/-- The step of a word that is no instruction. -/
theorem step_of_rejected {s : State} {e : DecodeErr} (hu : Undisturbed s) (hf : s.fetch = .rejected e) :
    step s = atBoundary (s.reject e) := by
  simp [step, hu.1, hu.accepts_false, hf]

/-- A refused field stops the machine by its name (log 17). -/
theorem State.reject_refused (s : State) {e : DecodeErr} (h : e ∈ fieldRefusals) :
    ∃ r ∈ [Refusal.mustBeZero, .blankCondition, .registerPair, .pcOperand, .stackPointerOperand],
      s.reject e = .refused r := by
  simp only [fieldRefusals, List.mem_cons, List.not_mem_nil, or_false] at h
  rcases h with rfl | rfl | rfl | rfl | rfl
  all_goals exact ⟨_, by decide, rfl⟩

/-- Settles O5: what decodes is an encoding, an encoding has no such field, and the cell is not blank. -/
theorem refusedEncodingsStop : Obligations.RefusedEncodingsStop := by
  intro s w1 w2 hw hrefused
  cases hdec : decode w1 w2 with
  | ok i => exact absurd hdec (decode_ne_ok_of_refused hrefused w2 i)
  | error e =>
    have he : e ∈ fieldRefusals := decode_refusal hw hdec
    refine ⟨⟨e, rfl, ?_⟩, fun hu hfetch => ?_⟩
    · rintro rfl
      exact absurd he (by decide)
    · obtain ⟨r, hr, hreject⟩ := s.reject_refused he
      refine ⟨r, hr, ?_⟩
      rw [step_of_rejected hu (State.fetch_rejected hfetch hdec), hreject]
      rfl

/-- Settles O9: the fetch rejects the word as undefined, and its trap entry is ready for whichever PC is saved. -/
theorem undefinedOpcodeTraps : Obligations.UndefinedOpcodeTraps := by
  intro s w1 hu hfetch hw hr
  obtain ⟨spc, t, hspc, ht, htaken⟩ := State.takeFault_taken (x := .undefinedInstruction) hr
  refine ⟨spc, t, hspc, ?_, htaken⟩
  rw [step_of_rejected hu (State.fetch_rejected hfetch (decode_of_blank hw 0#16)), State.reject, ht]
  rfl

end Machine
end Sys2Proof
end

section
/-! PROOFS. The effective addresses and the operands of the addressing modes, in numbers. -/

namespace Sys2Proof.Machine

/-! ## Effective addresses -/

/-- FP is one register in both modes (10_state R22). -/
theorem State.reg_fp (s : State) : s.reg .fp = s.regs.fp := rfl

/-- A field extended by its sign keeps its value (30_encoding R90). -/
theorem toInt_sextNibble (n : BitVec 4) : (sextNibble n).toInt = n.toInt :=
  BitVec.toInt_signExtend_of_le (by decide)

/-- Twice a signed field added to an address, modulo 2^16 (30_encoding R95). -/
theorem toNat_add_two_mul_sextNibble (a : Word) (n : BitVec 4) :
    ((a + 2#16 * sextNibble n).toNat : Int) = (a.toNat + 2 * n.toInt) % 65536 := by
  have hmod : ((sextNibble n).toNat : Int) % 65536 = n.toInt % 65536 := by
    rw [← toInt_sextNibble, BitVec.toInt_eq_toNat_bmod]
    exact (Int.bmod_emod (x := (sextNibble n).toNat) (m := 65536)).symm
  rw [BitVec.toNat_add, BitVec.toNat_mul, show (2#16).toNat = 2 from rfl]
  omega

/-- Settles O14, mode by mode. -/
theorem effectiveAddresses : Obligations.EffectiveAddresses := by
  intro s d rx d4
  refine ⟨rfl, BitVec.toNat_add d (s.reg rx), ?_, rfl, rfl⟩
  exact toNat_add_two_mul_sextNibble s.regs.fp d4

/-! ## Operands -/

/-- A byte extended by zeros (00_scope section 6). -/
theorem zextByte_eq_joinBytes (b : Byte) : zextByte b = joinBytes 0x00#8 b := by
  apply BitVec.eq_of_toNat_eq
  have hlt := b.isLt
  simp only [zextByte, toNat_joinBytes, BitVec.toNat_setWidth, BitVec.toNat_ofNat]
  omega

/-- A byte from 80h on extended by its sign (00_scope section 6). -/
theorem sextByte_eq_joinBytes {b : Byte} (h : b.msb = true) : sextByte b = joinBytes 0xFF#8 b := by
  apply BitVec.eq_of_toNat_eq
  have hlt := b.isLt
  simp only [sextByte, toNat_joinBytes, BitVec.toNat_signExtend, BitVec.toNat_setWidth, BitVec.toNat_ofNat, h, if_true]
  omega

/-- A byte operand holds the byte below zeros, or, from 80h on, below ones (30_encoding R92, BYTE_LOAD_EXT). -/
theorem extByte_cases (b : Byte) :
    extByte b = joinBytes 0x00#8 b ∨ 128 ≤ b.toNat ∧ extByte b = joinBytes 0xFF#8 b := by
  rw [extByte]
  split
  · next hmsb =>
    split
    · exact .inl (zextByte_eq_joinBytes b)
    · exact .inr ⟨by simpa [BitVec.msb_eq_decide] using hmsb, sextByte_eq_joinBytes hmsb⟩
  · exact .inl (zextByte_eq_joinBytes b)

section MmuOff

variable {s : State} (hm : s.mmuEn = false) {l : Loc}
include hm

/-- A word operand at an even address (20_memory R56). -/
theorem State.operand_word (hb : isByteLoc l = false) (he : isOdd (s.effAddr l) = false) :
    s.operand (.loc l) = .ok (s.wordAt (s.effAddr l)) := by
  simp [State.operand, State.loadLoc, hb, State.loadWord_mmuOff hm .read he]

/-- A byte operand, at any address (20_memory R58). -/
theorem State.operand_byte (hb : isByteLoc l = true) :
    s.operand (.loc l) = .ok (extByte (s.byteAt (s.effAddr l))) := by
  simp [State.operand, State.loadLoc, State.loadByte, hb, State.check_mmuOff hm, Except.map]

end MmuOff

/-- Settles O15, mode by mode. -/
theorem operandValues : Obligations.OperandValues := by
  intro s v rs i4 l
  refine ⟨rfl, rfl, ⟨_, rfl, toInt_sextNibble i4⟩, fun hm => State.operand_word hm, fun hm => State.operand_odd hm, ?_⟩
  intro hm hb
  refine ⟨_, State.operand_byte hm hb, ?_⟩
  rcases extByte_cases (s.byteAt (s.effAddr l)) with h | ⟨hge, h⟩
  · rw [h]
    exact ⟨loByte_joinBytes _ _, .inl (hiByte_joinBytes _ _)⟩
  · rw [h]
    exact ⟨loByte_joinBytes _ _, .inr ⟨hge, hiByte_joinBytes _ _⟩⟩

end Sys2Proof.Machine
end

section
/-! PROOFS. The forms of instructions, and the trap entries, that stop by name. -/

namespace Sys2Proof.Machine

/-! ## Operands that an instruction refuses -/

section Operands

variable {s : State} {rd : Reg}

/-- MULL and DIVL outside the register pairs (30_encoding R102). -/
theorem exec_pair_refused (h : ∀ hi, (rd, hi) ∉ registerPairs) (src : Src) :
    exec (.mull rd src) s = .refused .registerPair ∧ exec (.divl rd src) s = .refused .registerPair := by
  simp only [exec, execMull, execDivl, pairHigh_none h, and_self]

/-- PUSH and POP of the stack pointer they use (46_stack_return R186, R187). -/
theorem exec_stackPointer_refused (h : IsStackPointer s rd) :
    exec (.push rd) s = .refused .stackPointerOperand ∧ exec (.pop rd) s = .refused .stackPointerOperand := by
  simp only [exec, execPush, execPop, (s.namesSp_iff rd).mpr h, if_true, and_self]

end Operands

/-! ## Ports outside the I/O space -/

section Ports

variable {s : State} {p : Port}

/-- An address outside the I/O space, or odd for a 16-bit access, is left to IO_ADDR_HIGH (45_io R182). -/
theorem State.ioTarget_outside
    (h : 0xFF < (s.portAddr p).toNat ∨ portByte p = false ∧ (s.portAddr p).toNat % 2 = 1) :
    s.ioTarget p = Config.ioAddrHigh (portByte p) (s.portAddr p) := by
  have hbad : ioAddrOk (portByte p) (s.portAddr p) = false := by
    rcases h with h | ⟨hb, ho⟩
    · simp [ioAddrOk, h]
    · simp [ioAddrOk, hb, isOdd_eq, ho]
  simp [State.ioTarget, hbad]

/-- IN and OUT are not denied in privileged mode, with I, or where they are not privileged (45_io R183). -/
theorem State.ioDenied_false {x : PrivOp} (h : s.flag.p = true ∨ s.flag.i = true ∨ Config.privSet x = false) :
    s.ioDenied x = false := by
  rcases h with h | h | h <;> simp [State.ioDenied, State.ioAllowed, h]

/-- IN goes where its target says. -/
theorem exec_inp_cases (rd : Reg) (hd : s.ioDenied .inp = false) :
    s.ioTarget p = .refuse ∧ exec (.inp rd p) s = .refused .ioAddress ∨
      (∃ a, s.ioTarget p = .port a ∧ exec (.inp rd p) s = .next (s.readPort rd p a)) ∨
      s.ioTarget p = .raises ∧ exec (.inp rd p) s = (s.drawIn rd).takeFault .invalidAddress (portLen p) := by
  simp only [exec, execInp, hd]
  cases s.ioTarget p with
  | refuse => exact .inl ⟨rfl, rfl⟩
  | port a => exact .inr (.inl ⟨a, rfl, rfl⟩)
  | raises => exact .inr (.inr ⟨rfl, rfl⟩)

/-- OUT goes where its target says. -/
theorem exec_out_cases (rd : Reg) (hd : s.ioDenied .out = false) :
    s.ioTarget p = .refuse ∧ exec (.out rd p) s = .refused .ioAddress ∨
      (∃ a, s.ioTarget p = .port a ∧ exec (.out rd p) s = .next (s.writePort rd p a)) ∨
      s.ioTarget p = .raises ∧
        exec (.out rd p) s = (s.drawOut (portByte p)).takeFault .invalidAddress (portLen p) := by
  simp only [exec, execOut, hd]
  cases s.ioTarget p with
  | refuse => exact .inl ⟨rfl, rfl⟩
  | port a => exact .inr (.inl ⟨a, rfl, rfl⟩)
  | raises => exact .inr (.inr ⟨rfl, rfl⟩)

end Ports

/-! ## Writes to what is not Writable -/

/-- A store of a word raises what its check raises, finds a byte that is not Writable, or is done (20_memory R61). -/
theorem State.storeWord_cases (s : State) (kind : AccessKind) (a v : Word) :
    (∃ x, s.check kind false a = .error x ∧ s.storeWord kind a v = .raises x) ∨
      ∃ p, s.check kind false a = .ok p ∧
        (s.storeWord kind a v = .readOnly ∨
          writable p = true ∧ writable (p + 1#16) = true ∧ s.storeWord kind a v = .done (s.setWord p v)) := by
  cases hc : s.check kind false a with
  | error x => exact .inl ⟨x, rfl, by simp only [State.storeWord, hc]⟩
  | ok p =>
    refine .inr ⟨p, rfl, ?_⟩
    by_cases hw : writable p = true ∧ writable (p + 1#16) = true
    · exact .inr ⟨hw.1, hw.2, State.storeWord_done v hc hw.1 hw.2⟩
    · exact .inl (by simp only [State.storeWord, hc, Bool.and_eq_true, if_neg hw])

section Writes

variable {s : State} {p : Word}

/-- ST goes on only where every byte it writes is Writable. -/
theorem State.store_readOnly_or {byte : Bool} {a : Word} (v : Word) (hc : s.check .write byte a = .ok p) :
    s.store byte a v = .readOnly ∨ writable p = true ∧ (byte = false → writable (p + 1#16) = true) := by
  cases byte with
  | true =>
    by_cases hw : writable p = true
    · exact .inr ⟨hw, nofun⟩
    · exact .inl (by simp [State.store, State.storeByte, hc, hw])
  | false =>
    obtain ⟨x, hx, -⟩ | ⟨q, hq, hro | ⟨hw, hw', -⟩⟩ := s.storeWord_cases .write a v
    · rw [hc] at hx; cases hx
    · exact .inl hro
    · rw [hc] at hq; cases hq
      exact .inr ⟨hw, fun _ => hw'⟩

/-- So does a push. -/
theorem State.pushWord_readOnly_or (v : Word) (hc : s.check .write false (s.reg .sp - 2#16) = .ok p) :
    s.pushWord v = .readOnly ∨ writable p = true ∧ writable (p + 1#16) = true := by
  rcases State.store_readOnly_or v hc with h | ⟨hp, hp'⟩
  · exact .inl (by rw [State.pushWord, h])
  · exact .inr ⟨hp, hp' rfl⟩

theorem exec_st_readOnly {rd : Reg} {l : Loc} (h : s.store (isByteLoc l) (s.effAddr l) (s.reg rd) = .readOnly) :
    exec (.st rd l) s = .refused .romWrite := by
  simp only [exec, execSt, h]

theorem exec_push_readOnly {rd : Reg} (hrd : ¬ IsStackPointer s rd) (h : s.pushWord (s.reg rd) = .readOnly) :
    exec (.push rd) s = .refused .romWrite := by
  simp only [exec, execPush, s.namesSp_iff, hrd, if_false, h]

theorem exec_call_readOnly {g : Target} (h : s.pushWord (s.pc + targetLen g) = .readOnly) :
    exec (.call g) s = .refused .romWrite := by
  simp only [exec, execCall, h]

end Writes

/-! ## Trap entries that cannot complete -/

/-- The check of an access looks at the MMU, P and the free values alone. -/
theorem State.check_congr {s t : State} (h0 : t.mmuEn = s.mmuEn) (h1 : t.mmuBase = s.mmuBase)
    (h2 : t.mmuLimit = s.mmuLimit) (h3 : t.flag.p = s.flag.p) (h4 : t.tick = s.tick) (kind : AccessKind) (byte : Bool)
    (a : Word) : t.check kind byte a = s.check kind byte a := by
  have ht : t.translate kind a = s.translate kind a := by simp only [State.translate, h0, h1, h2, h3]
  simp only [State.check, ht, h4]

section TrapEntry

variable (s : State) (n : BitVec 4) (spc : Word)

/-- A trap entry whose first push raises an exception (60_exceptions R213). -/
theorem State.trapEntry_check_error {x : Exc}
    (h : (s.setFlags s.flag.trapped).check .trapPush false (s.regs.ssp - 2#16) = .error x) :
    s.trapEntry n spc = .refused .trapEntryFault := by
  simp only [State.trapEntry, State.trapPush, State.storeWord, State.setFlags_regs, h]

/-- A push of trap entry raises an exception, finds its word not Writable, or is done where the check passes. -/
theorem State.trapPush_cases (v : Word) :
    (∃ x, s.trapPush v = .raises x) ∨ s.trapPush v = .readOnly ∨
      ∃ p, s.check .trapPush false (s.regs.ssp - 2#16) = .ok p ∧
        s.trapPush v = .done ((s.setWord p v).setPReg .ssp (s.regs.ssp - 2#16)) := by
  obtain ⟨x, -, h⟩ | ⟨p, hp, h | ⟨hw, hw', -⟩⟩ := s.storeWord_cases .trapPush (s.regs.ssp - 2#16) v
  · exact .inl ⟨x, by rw [State.trapPush, h]⟩
  · exact .inr (.inl (by rw [State.trapPush, h]))
  · exact .inr (.inr ⟨p, hp, State.trapPush_done v hp hw hw'⟩)

/-- The last part of trap entry goes on to an even handler address in the vector, or is refused. -/
theorem State.trapJump_cases :
    s.trapJump n = .refused .trapEntryFault ∨
      ∃ a, s.loadWord .vectorFetch (vectorAddr n) = .ok a ∧ isOdd a = false ∧ s.trapJump n = .next (s.setPc a) := by
  rw [State.trapJump]
  split
  · next a ha =>
    split
    · exact .inl rfl
    · next ho => exact .inr ⟨a, ha, by simpa using ho, rfl⟩
  · exact .inl rfl

/-- Everything trap entry can come to, wherever the MMU puts its accesses: a refusal, or both pushes pass the check, and
PC is the even handler address of the vector (60_exceptions R208, R213). -/
theorem State.trapEntry_cases :
    s.trapEntry n spc = .refused .trapEntryFault ∨ s.trapEntry n spc = .refused .romWrite ∨
      ∃ p q t, s.trapEntry n spc = .next t ∧ isOdd t.pc = false ∧
        (s.setFlags s.flag.trapped).check .trapPush false (s.regs.ssp - 2#16) = .ok p ∧
        (s.setFlags s.flag.trapped).check .trapPush false (s.regs.ssp - 4#16) = .ok q ∧
        t.loadWord .vectorFetch (vectorAddr n) = .ok t.pc := by
  rcases (s.setFlags s.flag.trapped).trapPush_cases spc with ⟨x, h1⟩ | h1 | ⟨p, hp, h1⟩
  · exact .inl (by simp only [State.trapEntry, h1])
  · exact .inr (.inl (by simp only [State.trapEntry, h1]))
  rw [State.trapEntry, h1]
  dsimp only
  generalize hu : (((s.setFlags s.flag.trapped).setWord p spc).setPReg .ssp _) = u
  rcases u.trapPush_cases s.flag.toWord with ⟨x, h2⟩ | h2 | ⟨q, hq, h2⟩
  · exact .inl (by rw [h2])
  · exact .inr (.inl (by rw [h2]))
  rw [h2]
  dsimp only
  rcases State.trapJump_cases ((u.setWord q s.flag.toWord).setPReg .ssp (u.regs.ssp - 2#16)) n with h3 | ⟨a, ha, ho, h3⟩
  · exact .inl h3
  · have hssp : u.regs.ssp - 2#16 = s.regs.ssp - 4#16 := by
      subst hu
      simp only [State.setPReg_regs, Regs.set_ssp, State.setFlags_regs]
      bv_omega
    refine .inr (.inr ⟨p, q, _, h3, ho, hp, ?_, ha⟩)
    rw [hssp] at hq
    rw [← hq, ← hu]
    exact State.check_congr rfl rfl rfl rfl rfl .trapPush false _

end TrapEntry

/-- Settles O34, part by part. -/
theorem refusedForms : Obligations.RefusedForms := by
  refine ⟨fun s rd src h => exec_pair_refused h src, fun s rd h => exec_stackPointer_refused h, fun s rd p hport => ?io,
    fun s rd l p hc => ?st, fun s p hc => ⟨fun rd hrd => ?push, fun g => ?call⟩,
    fun s n spc hm => ⟨fun ho => ?oddSsp, ?notReady⟩,
    fun s n spc x => s.trapEntry_check_error n spc, fun s n spc => s.trapEntry_cases n spc, fun s hm => ?svc⟩
  case io =>
    rw [← State.ioTarget_outside hport]
    exact ⟨fun h => exec_inp_cases rd (State.ioDenied_false h), fun h => exec_out_cases rd (State.ioDenied_false h)⟩
  case st => exact (State.store_readOnly_or (s.reg rd) hc).imp_left exec_st_readOnly
  case push => exact (State.pushWord_readOnly_or (s.reg rd) hc).imp_left (exec_push_readOnly hrd)
  case call => exact (State.pushWord_readOnly_or (s.pc + targetLen g) hc).imp_left exec_call_readOnly
  case oddSsp =>
    have ho' : isOdd (s.regs.ssp - 2#16) = true := (isOdd_sub_two _).trans ho
    exact s.trapEntry_check_error n spc (State.check_odd_mmuOff (s := s.setFlags s.flag.trapped) hm .trapPush ho')
  case notReady => exact (s.trapEntry_outcome n spc hm).2
  case svc => exact (s.trapEntry_outcome 15#4 (s.pc + 2#16) hm).2

end Sys2Proof.Machine
end

section
/-! PROOFS. NO, LD, LD Rd,FLAG and ST: the words that are one of them, what they write, and what they leave alone. -/

namespace Sys2Proof

open Sys2Proof.Machine

/-! ## Words -/

/-- The word of an instruction without a second one decodes to it, whatever follows (30_encoding R82). -/
theorem decode_encodeFields_word {i : Instr} (hwf : i.wf = true) (hone : (encodeFields i).2 = none) (w2 : Word) :
    decode (encodeFields i).1.word w2 = .ok i := by
  have hlen : hasSecondWord (encodeFields i).1 = false := by rw [(encodedLength i).1, hone]; rfl
  calc decode (encodeFields i).1.word w2
      = decode (encodeFields i).1.word 0#16 := decode_second (by rwa [Fields.ofWord_word]) w2 0#16
    _ = .ok i := by simpa [decode, hone] using decodeFields_encodeFields hwf

/-- A *9 format whose lower byte is not zero (30_encoding R100). -/
theorem decodePlain_mustBeZero {f : Fields} (i : Instr) (h : f.rd ++ f.rx ≠ 0#8) :
    decodePlain i f = .error .mustBeZero := by
  rw [decodePlain]
  split
  · next hrd =>
    have hrx : f.rx ≠ 0#4 := fun hrx => h (by rw [hrd, hrx]; rfl)
    rw [decodeZero, if_neg hrx]
  · rfl

/-- Row 00000 of the opcode map holds NO in column 0 (30_encoding R98). -/
theorem decode_of_hiByte_zero {w1 : Word} (h : hiByte w1 = 0#8) (w2 : Word) :
    decode w1 w2 = decodePlain .no (Fields.ofWord w1) := by
  have hcell : ∀ (op : BitVec 5) (m : BitVec 3), op ++ m = 0#8 → op = 0#5 ∧ m = 0#3 := by decide
  obtain ⟨hop, hmode⟩ := hcell _ _ ((hiByte_eq_fields w1).symm.trans h)
  rw [decode, decodeFields, hop, hmode]
  rfl

/-- `14d0h` is the word of LD Rd,FLAG (40_no_ld_st R122). -/
theorem ldFlag_word (rd : Reg) : 0x14#8 ++ (rd.bits ++ 0x0#4) = (encodeFields (.ldFlag rd)).1.word := by
  cases rd <;> rfl

namespace Machine

/-! ## FLAG in numbers -/

/-- A bit put behind the others. -/
theorem toNat_append_ofBool {n : Nat} (x : BitVec n) (b : Bool) :
    (x ++ BitVec.ofBool b).toNat = x.toNat * 2 + b.toNat :=
  BitVec.toNat_concat x b

/-- FLAG as a word, as a number (10_state R29). -/
theorem Flags.toNat_toWord (f : Flags) :
    f.toWord.toNat = 128 * f.e.toNat + 64 * f.p.toNat + 32 * f.i.toNat + 8 * f.v.toNat + 4 * f.c.toNat +
      2 * f.s.toNat + f.z.toNat := by
  have hzero : 0#1 = BitVec.ofBool false := rfl
  rw [Flags.toWord, toNat_zero_append, hzero]
  simp only [toNat_append_ofBool, BitVec.toNat_ofBool, Bool.toNat_false]
  omega

/-! ## Registers loaded -/

section Loads

variable (s : State) (rd : Reg) (v len : Word)

/-- A register written and PC moved on, and nothing else. -/
theorem writesOnly_setReg_advance : WritesOnly s ((s.setReg rd v).advance len) [bank s.flag.p rd] :=
  ⟨fun _ hp => Regs.get_set_ne _ _ (by simpa using hp), ⟨rfl, rfl, rfl⟩, fun _ => rfl,
    ⟨rfl, rfl, rfl, rfl, rfl, rfl, rfl, rfl, rfl, rfl⟩⟩

theorem condSame_setReg_advance : CondSame s ((s.setReg rd v).advance len) := ⟨rfl, rfl, rfl, rfl⟩

@[simp] theorem State.reg_advance : (s.advance len).reg rd = s.reg rd := rfl

end Loads

theorem exec_ld_ok {s : State} {src : Src} {b : Word} (rd : Reg) (h : s.operand src = .ok b) :
    exec (.ld rd src) s = .next ((s.setReg rd b).advance (srcLen src)) := by
  simp only [exec, execLd, h]

/-! ## Bytes and words stored -/

section Stores

variable (s : State) (p : Word)

theorem memSameBut_setByte (b : Byte) : MemSameBut s (s.setByte p b) [p] := by
  intro a ha
  rw [State.byteAt_setByte, if_neg (by simpa using ha)]

theorem memSameBut_setWord (v : Word) : MemSameBut s (s.setWord p v) [p, p + 1#16] := by
  intro a ha
  simp only [List.mem_cons, List.not_mem_nil, or_false, not_or] at ha
  obtain ⟨hhi, hlo⟩ := ha
  rw [State.byteAt_setWord, if_neg hlo, if_neg hhi]

/-- The upper byte of a word is at its own address (20_memory R55). -/
theorem State.byteAt_setWord_upper (v : Word) : (s.setWord p v).byteAt p = hiByte v := by
  rw [State.byteAt_setWord, if_neg (word_ne_succ p), if_pos rfl]

/-- The lower byte of a word is at the next address (20_memory R55). -/
theorem State.byteAt_setWord_lower (v : Word) : (s.setWord p v).byteAt (p + 1#16) = loByte v := by
  rw [State.byteAt_setWord, if_pos rfl]

end Stores

section Writable

variable {s : State} {a p : Word} (v : Word)

/-- An 8-bit store where the check passes and the byte can be written. -/
theorem State.store_byte_done (h : s.check .write true a = .ok p) (hw : writable p = true) :
    s.store true a v = .done (s.setByte p (loByte v)) := by
  simp [State.store, State.storeByte, h, hw]

/-- A 16-bit store where the check passes and both bytes can be written. -/
theorem State.store_word_done (h : s.check .write false a = .ok p) (hw : writable p = true)
    (hw' : writable (p + 1#16) = true) : s.store false a v = .done (s.setWord p v) :=
  State.storeWord_done v h hw hw'

end Writable

theorem exec_st_done {s t : State} {rd : Reg} {l : Loc}
    (h : s.store (isByteLoc l) (s.effAddr l) (s.reg rd) = .done t) :
    exec (.st rd l) s = .next (t.advance (locLen l)) := by
  simp only [exec, execSt, h]

/-! ## The statements -/

/-- Settles O19: the word is the encoding's, and the register takes FLAG as a word. -/
theorem ldFlagCopiesFlag : Obligations.LdFlagCopiesFlag := by
  refine ⟨fun rd w2 => ?_, fun s rd => ?_⟩
  · rw [ldFlag_word]
    exact decode_encodeFields_word rfl rfl w2
  · refine ⟨(s.setReg rd s.flag.toWord).advance 2#16, rfl, ?_, writesOnly_setReg_advance s rd _ _,
      condSame_setReg_advance s rd _ _, rfl⟩
    rw [State.reg_advance, State.reg_setReg_same, Flags.toNat_toWord]

/-- Settles O20: the location is a byte in mode 7 and a word in the others. -/
theorem stStoresRegister : Obligations.StStoresRegister := by
  intro s rd l p hc hw hw'
  cases hb : isByteLoc l with
  | true =>
    rw [hb] at hc
    have hexec : exec (.st rd l) s = .next ((s.setByte p (loByte (s.reg rd))).advance (locLen l)) :=
      exec_st_done (by rw [hb]; exact State.store_byte_done _ hc hw)
    exact ⟨_, hexec, fun _ => ⟨State.byteAt_setByte_same s p _, memSameBut_setByte s p _⟩, nofun, rfl, rfl,
      ⟨rfl, rfl, rfl, rfl, rfl, rfl, rfl, rfl, rfl, rfl⟩, rfl⟩
  | false =>
    rw [hb] at hc
    have hexec : exec (.st rd l) s = .next ((s.setWord p (s.reg rd)).advance (locLen l)) :=
      exec_st_done (by rw [hb]; exact State.store_word_done _ hc hw (hw' hb))
    exact ⟨_, hexec, nofun,
      fun _ => ⟨State.byteAt_setWord_upper s p _, State.byteAt_setWord_lower s p _, memSameBut_setWord s p _⟩,
      rfl, rfl, ⟨rfl, rfl, rfl, rfl, rfl, rfl, rfl, rfl, rfl, rfl⟩, rfl⟩

/-- Settles O16: NO is the encoding 0000h, and its row has no other word. -/
theorem noOnlyAdvances : Obligations.NoOnlyAdvances := by
  refine ⟨fun s => rfl, fun w2 => decode_encodeFields_word (i := .no) rfl rfl w2, fun w1 w2 hhi hlo => ?_⟩
  rw [decode_of_hiByte_zero hhi]
  exact decodePlain_mustBeZero .no (by rwa [← loByte_eq_fields])

/-- Settles O17: LD writes the operand and moves PC on. -/
theorem ldLoadsOperand : Obligations.LdLoadsOperand := by
  intro s rd src b hb
  exact ⟨_, exec_ld_ok rd hb, State.reg_setReg_same s rd b, writesOnly_setReg_advance s rd b _,
    condSame_setReg_advance s rd b _, rfl⟩

end Machine
end Sys2Proof
end

section
/-! PROOFS. ADD, SUB, CMP, AND, OR, XOR and ADDS: results and flags in numbers, and the frame they share. -/

namespace Sys2Proof.Machine

/-! ## The flags of a sum and of a difference -/

/-- C of an addition is the carry (41_alu R131). -/
theorem addCond_c (a b : Word) : (addCond a b).c = true ↔ 65536 ≤ a.toNat + b.toNat := by
  simp [addCond, resultCond]

/-- V of an addition: the sign of the sum is wrong exactly where the exact sum is no 16-bit signed number. -/
theorem addCond_v (a b : Word) :
    (addCond a b).v = true ↔ a.toInt + b.toInt < -32768 ∨ 32767 < a.toInt + b.toInt := by
  have hv : (addCond a b).v = BitVec.saddOverflow a b := (BitVec.saddOverflow_eq a b).symm
  rw [hv, BitVec.saddOverflow, Bool.or_eq_true, decide_eq_true_eq, decide_eq_true_eq]
  omega

/-- S of a subtraction is the sign of its result (41_alu R132). -/
theorem subCond_s (a b : Word) : (subCond a b).s = true ↔ (a - b).toInt < 0 :=
  resultCond_s (a - b) _ _

/-- V of a subtraction: the sign of the difference is wrong exactly where the exact one is no 16-bit signed number. -/
theorem subCond_v (a b : Word) :
    (subCond a b).v = true ↔ a.toInt - b.toInt < -32768 ∨ 32767 < a.toInt - b.toInt := by
  have hv : (subCond a b).v = BitVec.ssubOverflow a b := by
    rw [BitVec.ssubOverflow_eq]
    change (a.msb != b.msb && (a - b).msb != a.msb) = _
    cases a.msb <;> cases b.msb <;> simp
  rw [hv, BitVec.ssubOverflow, Bool.or_eq_true, decide_eq_true_eq, decide_eq_true_eq]
  omega

/-! ## The frame of the family -/

/-- The common frame of 41_alu (R130) where the operand is there and S and Z are those of the result: Rd, the flags,
what else changes, and PC. -/
theorem State.aluOp_spec {s : State} {rd : Reg} {src : Src} {b : Word} (result : Word → Word → Word)
    (cond : Word → Word → Cond → Cond) (hb : s.operand src = .ok b)
    (hcond : ∀ d, ∃ v c, cond (s.reg rd) b d = resultCond (result (s.reg rd) b) v c) :
    ∃ t, s.aluOp rd src result cond = .next t ∧ t.reg rd = result (s.reg rd) b ∧
      t.flag = s.flag.withCond (cond (s.reg rd) b (Config.flagDraw s.tick)) ∧
      (t.flag.s = true ↔ (t.reg rd).toInt < 0) ∧ (t.flag.z = true ↔ t.reg rd = 0#16) ∧
      WritesOnly s t [bank s.flag.p rd] ∧ t.pc = s.pc + srcLen src := by
  obtain ⟨v, c, hc⟩ := hcond (Config.flagDraw s.tick)
  refine ⟨_, State.aluOp_ok result cond hb, reg_aluOp .., rfl, ?_, ?_, writesOnly_aluOp .., rfl⟩
  · rw [reg_aluOp, ← resultCond_s _ v c, ← hc]; rfl
  · rw [reg_aluOp, ← resultCond_z _ v c, ← hc]; rfl

/-- AND, OR, XOR and ADDS: C and V are drawn, so no more is said of the flags than S and Z (41_alu R134-R137). -/
theorem State.aluOp_logicCond {s : State} {src : Src} {b : Word} (rd : Reg) (result : Word → Word → Word)
    (hb : s.operand src = .ok b) :
    ∃ t, s.aluOp rd src result (fun x y d => logicCond (result x y) d) = .next t ∧
      t.reg rd = result (s.reg rd) b ∧
      (t.flag.s = true ↔ (t.reg rd).toInt < 0) ∧ (t.flag.z = true ↔ t.reg rd = 0#16) ∧
      WritesOnly s t [bank s.flag.p rd] ∧ t.pc = s.pc + srcLen src := by
  obtain ⟨t, hexec, hreg, -, hrest⟩ := State.aluOp_spec (rd := rd) result
    (fun x y d => logicCond (result x y) d) hb fun d => ⟨d.v, d.c, rfl⟩
  exact ⟨t, hexec, hreg, hrest⟩

theorem exec_cmp_ok {s : State} {src : Src} {b : Word} (rd : Reg) (hb : s.operand src = .ok b) :
    exec (.cmp rd src) s = .next ((s.setCond (subCond (s.reg rd) b)).advance (srcLen src)) := by
  simp only [exec, execCmp, hb]

/-- V, C, S, Z and PC written and nothing else. -/
theorem writesOnly_setCond_advance (s : State) (c : Cond) (len : Word) :
    WritesOnly s ((s.setCond c).advance len) [] :=
  ⟨fun _ _ => rfl, ⟨rfl, rfl, rfl⟩, fun _ => rfl, ⟨rfl, rfl, rfl, rfl, rfl, rfl, rfl, rfl, rfl, rfl⟩⟩

/-! ## The statements -/

/-- Settles O22: the frame of the family, with the carry and the signed overflow of the sum. -/
theorem addSumAndFlags : Obligations.AddSumAndFlags := by
  intro s rd src b hb
  obtain ⟨t, hexec, hreg, hflag, hs, hz, hframe, hpc⟩ := State.aluOp_spec (rd := rd) (fun x y => x + y)
    (fun x y _ => addCond x y) hb fun _ => ⟨_, _, rfl⟩
  refine ⟨t, hexec, ?_, ?_, ?_, hs, hz, hframe, hpc⟩
  · rw [hreg, BitVec.toNat_add]
  · rw [hflag]; exact addCond_c _ _
  · rw [hflag]; exact addCond_v _ _

/-- Settles O23: the frame of the family, with the borrow and the signed overflow of the difference. -/
theorem subDifferenceAndFlags : Obligations.SubDifferenceAndFlags := by
  intro s rd src b hb
  obtain ⟨t, hexec, hreg, hflag, hs, hz, hframe, hpc⟩ := State.aluOp_spec (rd := rd) (fun x y => x - y)
    (fun x y _ => subCond x y) hb fun _ => ⟨_, _, rfl⟩
  refine ⟨t, hexec, ?_, ?_, ?_, hs, hz, hframe, hpc⟩
  · rw [hreg, BitVec.toNat_sub]
    have := b.isLt
    omega
  · rw [hflag]; exact subCond_c _ _
  · rw [hflag]; exact subCond_v _ _

/-- Settles O24: CMP writes the flags of the subtraction, and SUB leaves the same FLAG. -/
theorem cmpFlags : Obligations.CmpFlags := by
  intro s rd src b hb
  have hcmp := exec_cmp_ok rd hb
  refine ⟨_, hcmp, subCond_c _ _, subCond_v _ _, subCond_s _ _, subCond_z _ _,
    writesOnly_setCond_advance s _ _, rfl, fun u hsub => ?_⟩
  have hflag := (flag_of_cmp_or_sub hb (.inr hsub)).trans (flag_of_cmp_or_sub hb (.inl hcmp)).symm
  simp only [CondSame, hflag, and_self]

/-- Settles O26: the three results bit by bit. -/
theorem logicOperations : Obligations.LogicOperations := by
  intro s rd src b hb
  refine ⟨?and, ?or, ?xor⟩
  case and =>
    obtain ⟨t, hexec, hreg, hrest⟩ := State.aluOp_logicCond rd (fun x y => x &&& y) hb
    exact ⟨t, hexec, fun i => by rw [hreg, BitVec.getLsbD_and], hrest⟩
  case or =>
    obtain ⟨t, hexec, hreg, hrest⟩ := State.aluOp_logicCond rd (fun x y => x ||| y) hb
    exact ⟨t, hexec, fun i => by rw [hreg, BitVec.getLsbD_or], hrest⟩
  case xor =>
    obtain ⟨t, hexec, hreg, hrest⟩ := State.aluOp_logicCond rd (fun x y => x ^^^ y) hb
    exact ⟨t, hexec, fun i => by rw [hreg, BitVec.getLsbD_xor], hrest⟩

/-- Settles O27: the operand doubled and added, each modulo 2^16. -/
theorem addsScalesOperand : Obligations.AddsScalesOperand := by
  intro s rd src b hb
  obtain ⟨t, hexec, hreg, hrest⟩ := State.aluOp_logicCond rd (fun x y => x + 2#16 * y) hb
  refine ⟨t, hexec, ?_, hrest⟩
  rw [hreg, BitVec.toNat_add, BitVec.toNat_mul, BitVec.toNat_ofNat]
  omega

end Sys2Proof.Machine
end

section
/-! PROOFS. MUL, DIV, MOD, MULL and DIVL: results in numbers where the spec fixes them, their frames, and ZeroDivide. -/

namespace Sys2Proof.Machine

/-! ## The arithmetic parameters in their fixed ranges -/

section Arithmetic

variable {a b : Word}

/-- A word is read alike with and without sign where it is below 8000h. -/
theorem msb_eq_false_iff_lt (a : Word) : a.msb = false ↔ a.toNat < 0x8000 := by
  rw [BitVec.msb_eq_decide, decide_eq_false_iff_not, Nat.not_le]

theorem bothPositive_iff : bothPositive a b = true ↔ a.toNat < 0x8000 ∧ b.toNat < 0x8000 := by
  simp only [bothPositive, Bool.and_eq_true, Bool.not_eq_true', msb_eq_false_iff_lt]

/-- DivSem.quot in its fixed range (42_muldiv R141). -/
theorem toNat_divQuot (ha : a.toNat < 0x8000) (hb : b.toNat < 0x8000) : (divQuot a b).toNat = a.toNat / b.toNat := by
  rw [divQuot, if_pos (bothPositive_iff.mpr ⟨ha, hb⟩), BitVec.toNat_udiv]

/-- DivSem.rem in its fixed range (42_muldiv R142). -/
theorem toNat_divRem (ha : a.toNat < 0x8000) (hb : b.toNat < 0x8000) : (divRem a b).toNat = a.toNat % b.toNat := by
  rw [divRem, if_pos (bothPositive_iff.mpr ⟨ha, hb⟩), BitVec.toNat_umod]

/-- `a / 0001h = a` in every reading (42_muldiv R146). -/
theorem divQuot_one (a : Word) : divQuot a 1#16 = a := by
  rw [divQuot]
  split
  · exact BitVec.udiv_one
  · rfl

/-- `0000h / b = 0000h` in every reading (42_muldiv R146). -/
theorem divQuot_zero (b : Word) : divQuot 0#16 b = 0#16 := by
  rw [divQuot]
  split
  · exact BitVec.zero_udiv
  · split <;> rfl

/-- `a % 0001h = 0000h` in every reading (42_muldiv R146). -/
theorem divRem_one (a : Word) : divRem a 1#16 = 0#16 := by
  rw [divRem]
  split
  · exact BitVec.umod_one
  · rfl

/-- MulLongSem in its fixed range: the two words are the whole product (42_muldiv R143). -/
theorem mulHigh_mul_pair (ha : a.toNat < 0x8000) (hb : b.toNat < 0x8000) :
    (mulHigh a b).toNat * 65536 + (a * b).toNat = a.toNat * b.toNat := by
  have hlt : a.toNat * b.toNat < 0x8000 * 0x8000 := Nat.mul_lt_mul'' ha hb
  rw [mulHigh, if_pos (bothPositive_iff.mpr ⟨ha, hb⟩), BitVec.toNat_ofNat, BitVec.toNat_mul]
  omega

/-- The fixed range of DivLongSem in numbers (42_muldiv R144). -/
theorem divLongFixed_iff {n : BitVec 32} :
    divLongFixed n b = true ↔ n.toNat < 0x80000000 ∧ b.toNat < 0x8000 ∧ n.toNat / b.toNat ≤ 0x7FFF := by
  have hn : n.msb = false ↔ n.toNat < 0x80000000 := by
    rw [BitVec.msb_eq_decide, decide_eq_false_iff_not, Nat.not_le]
  simp only [divLongFixed, Bool.and_eq_true, Bool.not_eq_true', hn, msb_eq_false_iff_lt, decide_eq_true_eq, and_assoc]

/-- DivLongSem in its fixed range (42_muldiv R144): quotient and remainder each fit a word. -/
theorem toNat_divLong {n : BitVec 32} (h0 : b ≠ 0#16) (h : divLongFixed n b = true) :
    (divLongQuot n b).toNat = n.toNat / b.toNat ∧ (divLongRem n b).toNat = n.toNat % b.toNat := by
  obtain ⟨-, hb, hq⟩ := divLongFixed_iff.mp h
  have hpos : 0 < b.toNat := Nat.pos_of_ne_zero (BitVec.toNat_ne.mp h0)
  have hr : n.toNat % b.toNat < b.toNat := Nat.mod_lt _ hpos
  rw [divLongQuot, divLongRem, if_pos h, if_pos h, BitVec.toNat_ofNat, BitVec.toNat_ofNat]
  exact ⟨Nat.mod_eq_of_lt (by omega), Nat.mod_eq_of_lt (by omega)⟩

end Arithmetic

/-! ## MUL, DIV and MOD: one register and free flags -/

section OneRegister

variable {s : State} {src : Src} {b : Word} (rd : Reg) (result : Word → Word → Word)

/-- The common frame of 41_alu (R130) where all four flags are drawn. -/
theorem State.aluOp_draw (hb : s.operand src = .ok b) :
    ∃ t, s.aluOp rd src result (fun _ _ d => d) = .next t ∧ t.reg rd = result (s.reg rd) b ∧
      WritesOnly s t [bank s.flag.p rd] ∧ t.pc = s.pc + srcLen src :=
  ⟨_, State.aluOp_ok result _ hb, reg_aluOp .., writesOnly_aluOp .., rfl⟩

/-- DIV and MOD pass the zero test with any other operand, and complete. -/
theorem State.divOp_nonzero (hb : s.operand src = .ok b) (h0 : b ≠ 0#16) :
    ∃ t, s.divOp rd src result = .next t ∧ t.reg rd = result (s.reg rd) b ∧
      WritesOnly s t [bank s.flag.p rd] ∧ t.pc = s.pc + srcLen src := by
  rw [State.divOp, if_neg (by simpa [hb] using h0)]
  exact State.aluOp_draw rd result hb

/-- DIV and MOD by zero are faults that leave Rd and V, C, S, Z free (42_muldiv R145). -/
theorem State.divOp_zero (hb : s.operand src = .ok 0#16) :
    s.divOp rd src result = (s.drawResult rd).takeFault .zeroDivide (srcLen src) := by
  rw [State.divOp, if_pos hb]

end OneRegister

/-! ## MULL and DIVL: a register pair and free flags -/

section Pairs

variable {s : State} {rd hi : Reg} {src : Src} {b : Word} (hp : (rd, hi) ∈ registerPairs)
include hp

/-- What a pair holds after it is written, and that nothing else changes but V, C, S, Z and PC. -/
theorem State.writePair_advance_spec (lo up len : Word) :
    ((s.writePair rd hi lo up).advance len).reg rd = lo ∧ ((s.writePair rd hi lo up).advance len).reg hi = up ∧
      WritesOnly s ((s.writePair rd hi lo up).advance len) [bank s.flag.p rd, bank s.flag.p hi] ∧
      ((s.writePair rd hi lo up).advance len).pc = s.pc + len := by
  have hne := bank_pair_ne s.flag.p hp
  refine ⟨?lo, Regs.get_set_same _ _ _, ⟨fun p hnot => ?others, ⟨rfl, rfl, rfl⟩, fun _ => rfl,
    rfl, rfl, rfl, rfl, rfl, rfl, rfl, rfl, rfl, rfl⟩, rfl⟩
  case lo => exact (Regs.get_set_ne _ _ hne).trans (Regs.get_set_same _ _ _)
  case others =>
    simp only [List.mem_cons, List.not_mem_nil, or_false, not_or] at hnot
    obtain ⟨hrd, hhi⟩ := hnot
    exact (Regs.get_set_ne _ _ hhi).trans (Regs.get_set_ne _ _ hrd)

theorem exec_mull_ok (hb : s.operand src = .ok b) :
    exec (.mull rd src) s =
      .next ((s.writePair rd hi (s.reg rd * b) (mulHigh (s.reg rd) b)).advance (srcLen src)) := by
  simp only [exec, execMull, pairHigh_mem hp, hb]

theorem exec_divl_nonzero (hb : s.operand src = .ok b) (h0 : b ≠ 0#16) :
    exec (.divl rd src) s =
      .next ((s.writePair rd hi (divLongQuot (s.reg hi ++ s.reg rd) b)
        (divLongRem (s.reg hi ++ s.reg rd) b)).advance (srcLen src)) := by
  simp only [exec, execDivl, pairHigh_mem hp, hb, if_neg h0]

/-- DIVL by zero is a fault that leaves the pair and V, C, S, Z free (42_muldiv R145). -/
theorem exec_divl_zero (hb : s.operand src = .ok 0#16) :
    exec (.divl rd src) s = (s.drawPair rd hi).takeFault .zeroDivide (srcLen src) := by
  simp only [exec, execDivl, pairHigh_mem hp, hb, if_true]

end Pairs

/-! ## The statements -/

/-- Settles O31: the pair written holds the two words of the product. -/
theorem mullProduct : Obligations.MullProduct := by
  intro s rd hi src b hp hb
  obtain ⟨hlo, hup, hrest⟩ :=
    State.writePair_advance_spec (s := s) hp (s.reg rd * b) (mulHigh (s.reg rd) b) (srcLen src)
  refine ⟨_, exec_mull_ok hp hb, ?low, fun ha hb' => ?whole, hrest⟩
  case low => rw [hlo, BitVec.toNat_mul]
  case whole => rw [hlo, hup, mulHigh_mul_pair ha hb']

/-- Settles O32: the pair is divided as one 32-bit number; by zero the fault takes its trap entry after what it leaves
free. -/
theorem divlQuotientRemainder : Obligations.DivlQuotientRemainder := by
  intro s rd hi src b hp hb
  refine ⟨fun h0 => ?nonzero, ?zero⟩
  case nonzero =>
    obtain ⟨hlo, hup, hrest⟩ := State.writePair_advance_spec (s := s) hp (divLongQuot (s.reg hi ++ s.reg rd) b)
      (divLongRem (s.reg hi ++ s.reg rd) b) (srcLen src)
    refine ⟨_, exec_divl_nonzero hp hb h0, fun hn hb' hq => ?_, hrest⟩
    have hpair : (s.reg hi ++ s.reg rd : BitVec 32).toNat = (s.reg hi).toNat * 65536 + (s.reg rd).toNat := by
      rw [toNat_wordPair, Nat.mul_comm]
    rw [← hpair] at hn hq ⊢
    rw [hlo, hup]
    exact toNat_divLong h0 (divLongFixed_iff.mpr ⟨hn, hb', hq⟩)
  case zero =>
    rintro rfl hready
    obtain ⟨spc, t, hspc, hexec, htaken⟩ := State.takeFault_taken (s := s.drawPair rd hi) (x := .zeroDivide)
      (len := srcLen src) fun spc hspc => hready _ _ _ spc hspc
    exact ⟨_, _, _, spc, t, hspc, (exec_divl_zero hp hb).trans hexec, htaken⟩

/-- Settles O33: the product is in the fixed range of DIVL, and its quotient by the operand is Rd. -/
theorem mullThenDivl : Obligations.MullThenDivl := by
  intro s rd hi b hp ha hb1 hb
  have h0 : b ≠ 0#16 := BitVec.toNat_ne.mpr (Nat.ne_of_gt hb1)
  obtain ⟨t, hmull, -, hwhole, -⟩ := mullProduct s rd hi (.imm b) b hp rfl
  obtain ⟨hnonzero, -⟩ := divlQuotientRemainder t rd hi (.imm b) b hp rfl
  obtain ⟨u, hdivl, hfixed, -⟩ := hnonzero h0
  have hlt : (s.reg rd).toNat * b.toNat < 0x8000 * 0x8000 := Nat.mul_lt_mul'' ha hb
  have hquot : (s.reg rd).toNat * b.toNat / b.toNat = (s.reg rd).toNat := Nat.mul_div_cancel _ hb1
  rw [hwhole ha hb, hquot, Nat.mul_mod_left] at hfixed
  obtain ⟨hrd, hhi⟩ := hfixed (by omega) hb (by omega)
  exact ⟨t, u, hmull, hdivl, BitVec.eq_of_toNat_eq hrd, BitVec.eq_of_toNat_eq hhi⟩

/-- Settles O29: the common frame with the fixed range and the fixed points of DivSem. -/
theorem divModQuotientRemainder : Obligations.DivModQuotientRemainder := by
  intro s rd src b hb h0
  refine ⟨?div, ?mod⟩
  case div =>
    obtain ⟨t, hexec, hreg, hrest⟩ := State.divOp_nonzero rd divQuot hb h0
    refine ⟨t, hexec, ?_, ?_, ?_, hrest⟩ <;> rw [hreg]
    · exact toNat_divQuot
    · rintro rfl
      exact divQuot_one _
    · intro ha
      rw [ha, divQuot_zero]
  case mod =>
    obtain ⟨t, hexec, hreg, hrest⟩ := State.divOp_nonzero rd divRem hb h0
    refine ⟨t, hexec, ?_, ?_, hrest⟩ <;> rw [hreg]
    · exact toNat_divRem
    · rintro rfl
      exact divRem_one _

/-- Settles O30: both are the same fault, and trap entry after it completes or is refused. -/
theorem zeroDivideTraps : Obligations.ZeroDivideTraps := by
  intro s rd src i hi hb hm
  have hexec : exec i s = (s.drawResult rd).takeFault .zeroDivide (srcLen src) := by
    obtain rfl | rfl := hi
    · exact State.divOp_zero rd divQuot hb
    · exact State.divOp_zero rd divRem hb
  rw [hexec]
  exact ⟨_, _, (s.drawResult rd).takeFault_outcome .zeroDivide (srcLen src) hm⟩

/-- Settles O28: the common frame with the product modulo 2^16. -/
theorem mulLowWord : Obligations.MulLowWord := by
  intro s rd src b hb
  obtain ⟨t, hexec, hreg, hrest⟩ := State.aluOp_draw rd (fun x y => x * y) hb
  exact ⟨t, hexec, by rw [hreg, BitVec.toNat_mul], hrest⟩

end Sys2Proof.Machine
end

section
/-! PROOFS. SHLA, SHLL, SHRA and SHRL: results in numbers for counts of 0 to 15, S and Z for 1 to 15, and the frame. -/

namespace Sys2Proof.Machine

section Shifts

variable {s : State} {src : Src} {n : Word}

/-- S and Z are those of the result for counts of 1 to 15 (43_shift R150). -/
theorem shiftCond_eq_resultCond (r : Word) (h1 : 1 ≤ n.toNat) (h15 : n.toNat ≤ 15) (d : Cond) :
    shiftCond r n d = resultCond r d.v d.c :=
  if_pos ⟨h1, h15⟩

/-- The frame that the four shifts share, for every count: what Rd holds for counts of 0 to 15, S and Z for 1 to 15, what
else changes, and PC (43_shift R150). -/
theorem State.aluOp_shiftBy (rd : Reg) (op : ShiftOp) (f : Word → Nat → Word) (hn : s.operand src = .ok n) :
    ∃ t, s.aluOp rd src (shiftBy op f) (fun a k d => shiftCond (shiftBy op f a k) k d) = .next t ∧
      (n.toNat ≤ 15 → t.reg rd = f (s.reg rd) n.toNat) ∧
      (1 ≤ n.toNat → n.toNat ≤ 15 →
        (t.flag.s = true ↔ (t.reg rd).toInt < 0) ∧ (t.flag.z = true ↔ t.reg rd = 0#16)) ∧
      WritesOnly s t [bank s.flag.p rd] ∧ t.pc = s.pc + srcLen src := by
  have hexec := State.aluOp_ok (rd := rd) (shiftBy op f) (fun a k d => shiftCond (shiftBy op f a k) k d) hn
  refine ⟨_, hexec, fun h15 => ?result, fun h1 h15 => ?flags, writesOnly_aluOp .., rfl⟩
  case result => exact (reg_aluOp ..).trans (if_pos h15)
  case flags =>
    obtain ⟨t, hexec', -, -, hs, hz, -⟩ := State.aluOp_spec (rd := rd) (shiftBy op f)
      (fun a k d => shiftCond (shiftBy op f a k) k d) hn fun d => ⟨d.v, d.c, shiftCond_eq_resultCond _ h1 h15 d⟩
    obtain rfl := Host.Outcome.next.inj (hexec.symm.trans hexec')
    exact ⟨hs, hz⟩

end Shifts

/-! ## The statements -/

/-- Settles O35: the frame of the shifts; SHLA and SHLL shift alike for counts of 0 to 15. -/
theorem shiftLeft : Obligations.ShiftLeft := by
  intro s rd src n i hi hn
  obtain rfl | rfl := hi
  case inl =>
    obtain ⟨t, hexec, hreg, hrest⟩ := State.aluOp_shiftBy rd .shla (fun x k => x <<< k) hn
    exact ⟨t, hexec, fun h15 => by rw [hreg h15, BitVec.toNat_shiftLeft, Nat.shiftLeft_eq], hrest⟩
  case inr =>
    obtain ⟨t, hexec, hreg, hrest⟩ := State.aluOp_shiftBy rd .shll (fun x k => x <<< k) hn
    exact ⟨t, hexec, fun h15 => by rw [hreg h15, BitVec.toNat_shiftLeft, Nat.shiftLeft_eq], hrest⟩

/-- Settles O36: the frame of the shifts, with the signed and the unsigned quotient. -/
theorem shiftRight : Obligations.ShiftRight := by
  intro s rd src n hn
  refine ⟨?shra, ?shrl⟩
  case shra =>
    obtain ⟨t, hexec, hreg, hrest⟩ := State.aluOp_shiftBy rd .shra (fun x k => x.sshiftRight k) hn
    refine ⟨t, hexec, fun h15 => ?_, hrest⟩
    rw [hreg h15, BitVec.toInt_sshiftRight, Int.shiftRight_eq_div_pow, Nat.cast_pow, Nat.cast_ofNat]
  case shrl =>
    obtain ⟨t, hexec, hreg, hrest⟩ := State.aluOp_shiftBy rd .shrl (fun x k => x >>> k) hn
    exact ⟨t, hexec, fun h15 => by rw [hreg h15, BitVec.toNat_ushiftRight, Nat.shiftRight_eq_div_pow], hrest⟩

end Sys2Proof.Machine
end

section
/-! PROOFS. The fifteen jumps; CALL by what a push does; RET after CALL. -/

namespace Sys2Proof.Machine

/-! ## Jumps -/

section Conditions

variable (f : Flags)

/-- Signed less (10_state R35): S and V differ. -/
theorem condLt_iff : condLt f = true ↔ f.s ≠ f.v := by simp [condLt]

/-- Signed less or equal (10_state R35). -/
theorem condLe_iff : condLe f = true ↔ f.z = true ∨ f.s ≠ f.v := by simp [condLe]

/-- Unsigned lower or same (10_state R35). -/
theorem condLs_iff : condLs f = true ↔ f.z = true ∨ f.c = true := by simp [condLs]

/-- Signed greater or equal. -/
theorem not_condLt_iff : (!condLt f) = true ↔ f.s = f.v := by
  rw [Bool.not_eq_true', ← Bool.not_eq_true, condLt_iff, not_ne_iff]

/-- Signed greater. -/
theorem not_condLe_iff : (!condLe f) = true ↔ f.z = false ∧ f.s = f.v := by
  rw [Bool.not_eq_true', ← Bool.not_eq_true, condLe_iff, not_or, Bool.not_eq_true, not_ne_iff]

/-- Unsigned higher. -/
theorem not_condLs_iff : (!condLs f) = true ↔ f.z = false ∧ f.c = false := by
  rw [Bool.not_eq_true', ← Bool.not_eq_true, condLs_iff, not_or, Bool.not_eq_true, Bool.not_eq_true]

end Conditions

/-- Settles O37: each jump is the common frame on its condition, and the condition is put in terms of the flags. -/
theorem jumpsTransferControl : Obligations.JumpsTransferControl := by
  intro s g
  have clear_iff (b : Bool) : (!b) = true ↔ b = false := (Bool.not_eq_true' b).to_iff
  refine ⟨?jz, ?jc, ?jm, ?jo, ?jgt, ?jge, ?jle, ?jlt, ?jnz, ?jnc, ?jnm, ?jno, ?jhi, ?jls, ?jmp⟩
  case jz => exact s.jumpIf_of_iff Iff.rfl g
  case jc => exact s.jumpIf_of_iff Iff.rfl g
  case jm => exact s.jumpIf_of_iff Iff.rfl g
  case jo => exact s.jumpIf_of_iff Iff.rfl g
  case jgt => exact s.jumpIf_of_iff (not_condLe_iff _) g
  case jge => exact s.jumpIf_of_iff (not_condLt_iff _) g
  case jle => exact s.jumpIf_of_iff (condLe_iff _) g
  case jlt => exact s.jumpIf_of_iff (condLt_iff _) g
  case jnz => exact s.jumpIf_of_iff (clear_iff _) g
  case jnc => exact s.jumpIf_of_iff (clear_iff _) g
  case jnm => exact s.jumpIf_of_iff (clear_iff _) g
  case jno => exact s.jumpIf_of_iff (clear_iff _) g
  case jhi => exact s.jumpIf_of_iff (not_condLs_iff _) g
  case jls => exact s.jumpIf_of_iff (condLs_iff _) g
  case jmp => rfl

/-! ## CALL and RET -/

/-- What a push does where its check passes and its word is Writable: SP is two less, the word is at the address that the
check gives, and nothing else changes (46_stack_return R185). -/
theorem State.pushWord_spec {s : State} {p : Word} (v : Word) (h : s.check .write false (s.reg .sp - 2#16) = .ok p)
    (hw : writable p = true) (hw' : writable (p + 1#16) = true) :
    ∃ t, s.pushWord v = .done t ∧ t.reg .sp = s.reg .sp - 2#16 ∧ t.wordAt p = v ∧ t.pc = s.pc ∧
      RegsSameBut s t [bank s.flag.p .sp] ∧ MemSameBut s t [p, p + 1#16] ∧ t.flag = s.flag ∧ DevicesSame s t :=
  ⟨_, State.pushWord_done v h hw hw', State.reg_setReg_same .., State.wordAt_setWord_same .., rfl,
    fun _ hq => Regs.get_set_ne _ _ (by simpa using hq), memSameBut_setWord s p v, rfl,
    rfl, rfl, rfl, rfl, rfl, rfl, rfl, rfl, rfl, rfl⟩

section CallRet

variable {s t : State}

/-- CALL goes to the target that the state before the push gives (44_jump_call R176). -/
theorem exec_call_done {g : Target} (h : s.pushWord (s.pc + targetLen g) = .done t) :
    exec (.call g) s = .next (t.setPc (s.targetAddr g)) := by
  simp only [exec, execCall, h]

/-- RET goes to the word at SP and moves SP past it (46_stack_return R188). -/
theorem exec_ret_ok {a : Word} (h : s.loadWord .read (s.reg .sp) = .ok a) :
    exec .ret s = .next ((s.setReg .sp (s.reg .sp + 2#16)).setPc a) := by
  simp only [exec, execRet, h]

/-- Registers that read alike are the same. -/
theorem Regs.eq_of_get {r q : Regs} (h : ∀ p, r.get p = q.get p) : r = q := by
  rw [Regs.mk.injEq]
  exact ⟨h .g0, h .g1, h .g2, h .g3, h .g4, h .g5, h .g6, h .g7, h .g8, h .g9, h .g10, h .g11, h .fp, h .ssp, h .usp⟩

/-- Writing its old value to the one register that changed gives back all registers. -/
theorem RegsSameBut.set_get {p : PReg} (h : RegsSameBut s t [p]) : t.regs.set p (s.regs.get p) = s.regs := by
  refine Regs.eq_of_get fun q => ?_
  rw [Regs.get_set]
  split
  · next heq => rw [heq]
  · next hne => exact h q (by simpa using hne)

end CallRet

/-- Settles O38: the push, and then PC. -/
theorem callPushesReturnAddress : Obligations.CallPushesReturnAddress := by
  intro s g p hc hw hw'
  obtain ⟨t, hpush, hsp, hword, -, hframe⟩ := State.pushWord_spec (s.pc + targetLen g) hc hw hw'
  exact ⟨_, exec_call_done hpush, hsp, hword, rfl, hframe⟩

/-- Settles O39: RET loads the word that CALL pushed and writes the old SP back, the one register that CALL changed. -/
theorem callThenRet : Obligations.CallThenRet := by
  intro s g hm he hw
  have he' : isOdd (s.reg .sp - 2#16) = false := (isOdd_sub_two _).trans he
  have hc : s.check .write false (s.reg .sp - 2#16) = .ok (s.reg .sp - 2#16) := by simp [State.check_mmuOff hm, he']
  obtain ⟨t, hcall, hsp, hword, -, hregs, -, hflag, hmmu, -⟩ :=
    callPushesReturnAddress s g _ hc hw (writable_succ he' hw)
  have hload : t.loadWord .read (t.reg .sp) = .ok (s.pc + targetLen g) := by
    rw [hsp, State.loadWord_mmuOff (hmmu.trans hm) .read he', hword]
  refine ⟨t, _, hcall, exec_ret_ok hload, rfl, ?regs, hflag⟩
  case regs =>
    rw [State.setPc_regs, State.setReg_regs, hflag, hsp, BitVec.sub_add_cancel]
    exact hregs.set_get

end Sys2Proof.Machine
end

section
/-! PROOFS. IN and OUT: who may use them, what IN reads, what OUT writes, and the frame they share. -/

namespace Sys2Proof.Machine

/-! ## Privilege and port addresses -/

section Access

variable {s : State} {rd : Reg} {p : Port} {x : PrivOp}

/-- Without P and I, IN and OUT are denied where PRIV_SET holds them (45_io R183; log 6). -/
theorem State.ioDenied_user (hp : s.flag.p = false) (hi : s.flag.i = false) : s.ioDenied x = Config.privSet x := by
  simp [State.ioDenied, State.ioAllowed, hp, hi]

/-- IN and OUT that are denied make no I/O access and write nothing (45_io R183; log 11). -/
theorem exec_io_denied {i : Instr} (hi : x = .inp ∧ i = .inp rd p ∨ x = .out ∧ i = .out rd p)
    (hd : s.ioDenied x = true) : exec i s = s.takeFault .privViolation (portLen p) := by
  obtain ⟨rfl, rfl⟩ | ⟨rfl, rfl⟩ := hi
  · exact if_pos hd
  · exact if_pos hd

/-- The address itself where it is in the I/O space, and even for a 16-bit access (45_io R182). -/
theorem State.ioTarget_inside (hle : (s.portAddr p).toNat ≤ 0xFF)
    (heven : portByte p = true ∨ (s.portAddr p).toNat % 2 = 0) :
    s.ioTarget p = .port (loByte (s.portAddr p)) := by
  have hok : ioAddrOk (portByte p) (s.portAddr p) = true := by
    rcases heven with hb | he
    · simp [ioAddrOk, hle, hb]
    · simp [ioAddrOk, hle, isOdd_eq, he]
  exact if_pos hok

/-- IN that is not denied reads the port of its target (45_io R180). -/
theorem exec_inp_port {a : Byte} (rd : Reg) (hd : s.ioDenied .inp = false) (ht : s.ioTarget p = .port a) :
    exec (.inp rd p) s = .next (s.readPort rd p a) := by
  simp [exec, execInp, hd, ht]

/-- OUT that is not denied writes the port of its target (45_io R181). -/
theorem exec_out_port {a : Byte} (rd : Reg) (hd : s.ioDenied .out = false) (ht : s.ioTarget p = .port a) :
    exec (.out rd p) s = .next (s.writePort rd p a) := by
  simp [exec, execOut, hd, ht]

end Access

/-! ## The frame of an I/O access -/

section Frame

variable {s u : State}

/-- The end of an I/O access may clear requests and raises none (60_exceptions R204; log 31). -/
theorem IoFrame.ioSettle_advance (h : IoFrame s u) (len : Word) :
    IoFrame s (u.ioSettle.advance len) := by
  obtain ⟨hmem, hflag, hhalted, hmode, hinp, hpending⟩ := h
  refine ⟨hmem, hflag, hhalted, hmode, hinp, fun n hn => hpending n ?_⟩
  rw [State.advance_pending, State.ioSettle_pending, BitVec.getLsbD_and, Bool.and_eq_true] at hn
  obtain ⟨hkept, -⟩ := hn
  exact hkept

variable (s)

/-- Loading a register is within the frame. -/
theorem ioFrame_setReg (r : Reg) (v : Word) : IoFrame s (s.setReg r v) :=
  ⟨fun _ => rfl, rfl, rfl, rfl, rfl, fun _ => id⟩

/-- Writing the registers of a port and recording it are within the frame. -/
theorem ioFrame_ioStore_logIo (byte : Bool) (a : Byte) (v : Word) (e : IoEvent) :
    IoFrame s ((s.ioStore byte a v).logIo e) := by
  obtain ⟨-, -, hflag, hmem, hpending, hhalted, hmode, hinp, -, -⟩ := s.ioStore_frame byte a v
  exact ⟨fun k => State.byteAt_congr hmem k, hflag, hhalted, hmode, hinp, fun n hn => by rwa [← hpending]⟩

end Frame

/-! ## What IN loads and what OUT records -/

section Values

variable (s : State) (rd : Reg) (p : Port) (a : Byte)

/-- A byte of a port extended by zeros, as a number (45_io R180; log 5). -/
theorem State.toNat_ioValue_byte : (s.ioValue true a).toNat = (s.ioByte a).toNat :=
  (congrArg BitVec.toNat (zextByte_eq_joinBytes _)).trans (toNat_joinBytes_zero _)

/-- The two bytes of a row, as a number: the even address is the upper one (20_memory R55). -/
theorem State.toNat_ioValue_word :
    (s.ioValue false a).toNat = 256 * (s.ioByte a).toNat + (s.ioByte (a + 1#8)).toNat :=
  toNat_joinBytes _ _

/-- IN loads Rd with the value of the port. -/
theorem State.reg_readPort : (s.readPort rd p a).reg rd = s.ioValue (portByte p) a := State.reg_setReg_same ..

/-- IN changes no other register. -/
theorem regsSameBut_readPort : RegsSameBut s (s.readPort rd p a) [bank s.flag.p rd] :=
  fun _ hq => Regs.get_set_ne _ _ (by simpa using hq)

/-- An I/O write records its value as wide as it is (20_memory R61; log 38). -/
theorem State.ioWrite_ioLog (byte : Bool) (v : Word) :
    ∃ w, (s.ioWrite byte a v).ioLog = { addr := a, byte := byte, value := w } :: s.ioLog ∧ loByte w = loByte v ∧
      (byte = false → w = v) ∧ (byte = true → hiByte w = 0#8) := by
  obtain ⟨-, -, -, -, -, -, -, -, hlog, -⟩ := s.ioStore_frame byte a v
  refine ⟨_, congrArg (List.cons _) hlog, ?_⟩
  cases byte with
  | false => exact ⟨rfl, fun _ => rfl, nofun⟩
  | true =>
    have hzext : zextByte (loByte v) = joinBytes 0#8 (loByte v) := zextByte_eq_joinBytes _
    exact ⟨(congrArg loByte hzext).trans (loByte_joinBytes ..), nofun,
      fun _ => (congrArg hiByte hzext).trans (hiByte_joinBytes ..)⟩

end Values

/-! ## The statements -/

/-- Settles O51: where PRIV_SET holds the instruction it is denied, and trap entry is ready for whichever PC is saved. -/
theorem ioNeedsPrivilege : Obligations.IoNeedsPrivilege := by
  intro s rd p x i hi hp hI hready
  cases hpriv : Config.privSet x with
  | false => exact .inl rfl
  | true =>
    have hd : s.ioDenied x = true := (State.ioDenied_user hp hI).trans hpriv
    obtain ⟨spc, t, hspc, ht, htaken⟩ := State.takeFault_taken (x := .privViolation) hready
    exact .inr ⟨spc, t, hspc, (exec_io_denied hi hd).trans ht, htaken⟩

/-- Settles O52: the port is read into Rd, and the end of the access keeps the frame. -/
theorem inReadsPort : Obligations.InReadsPort := by
  intro s rd p hallowed hle heven
  have hexec := exec_inp_port rd (State.ioDenied_false hallowed) (State.ioTarget_inside hle heven)
  refine ⟨_, hexec, fun hb => ?byte, fun hb => ?word, regsSameBut_readPort s rd p _,
    (ioFrame_setReg s rd _).ioSettle_advance _, rfl, rfl, rfl, rfl, rfl, rfl, rfl⟩
  case byte => rw [State.reg_readPort, hb, State.toNat_ioValue_byte]
  case word => rw [State.reg_readPort, hb, State.toNat_ioValue_word]

/-- Settles O53: the port is written and recorded, and the end of the access keeps the frame. -/
theorem outWritesPort : Obligations.OutWritesPort := by
  intro s rd p hallowed hle heven
  have hexec := exec_out_port rd (State.ioDenied_false hallowed) (State.ioTarget_inside hle heven)
  obtain ⟨hregs, hpc, -⟩ := s.ioStore_frame (portByte p) (loByte (s.portAddr p)) (s.reg rd)
  exact ⟨_, hexec, hregs, (ioFrame_ioStore_logIo s _ _ _ _).ioSettle_advance _, congrArg (· + portLen p) hpc,
    s.ioWrite_ioLog .., rfl, rfl, rfl, rfl, rfl⟩

end Sys2Proof.Machine
end

section
/-! PROOFS. PUSH, POP, RET and RETI: what each pushes or pops, and the registers it leaves alone. -/

namespace Sys2Proof.Machine

/-! ## FLAG -/

/-- A word that is loaded into FLAG and read again has lost bits 15:8 and 4 (46_stack_return R189). -/
theorem Flags.toWord_ofWord (w : Word) : (Flags.ofWord w).toWord = w &&& 0x00EF#16 := by
  refine BitVec.eq_of_getLsbD_eq fun k hk => ?_
  rw [Flags.getLsbD_toWord, BitVec.getLsbD_and]
  interval_cases k <;> simp [Flags.ofWord]

/-! ## Registers written -/

theorem WritesOnly.refl (s : State) (ps : List PReg) : WritesOnly s s ps :=
  ⟨fun _ _ => rfl, ⟨rfl, rfl, rfl⟩, fun _ => rfl, rfl, rfl, rfl, rfl, rfl, rfl, rfl, rfl, rfl, rfl⟩

/-- One more write to a listed register stays within the frame. -/
theorem WritesOnly.setReg {s t : State} {ps : List PReg} (h : WritesOnly s t ps) {r : Reg} (hr : bank t.flag.p r ∈ ps)
    (v : Word) : WritesOnly s (t.setReg r v) ps := by
  obtain ⟨hregs, hmode, hmem, hdevices⟩ := h
  refine ⟨fun q hq => ?_, hmode, hmem, hdevices⟩
  have hne : q ≠ bank t.flag.p r := fun he => hq (he ▸ hr)
  exact (Regs.get_set_ne _ _ hne).trans (hregs q hq)

/-- A register that is not the stack pointer is written without it. -/
theorem State.reg_sp_setReg {s : State} {r : Reg} (hr : ¬ IsStackPointer s r) (v : Word) :
    (s.setReg r v).reg .sp = s.reg .sp :=
  Regs.get_set_ne _ _ (State.bank_ne_sp hr).symm

/-! ## PUSH and POP -/

section PushPop

variable {s t : State} {rd : Reg}

/-- PUSH is the push of Rd and then PC (46_stack_return R186). -/
theorem exec_push_done (hrd : ¬ IsStackPointer s rd) (h : s.pushWord (s.reg rd) = .done t) :
    exec (.push rd) s = .next (t.advance 2#16) := by
  simp only [exec, execPush, s.namesSp_iff, hrd, if_false, h]

/-- POP moves SP past the word and loads it into Rd (46_stack_return R187). -/
theorem exec_pop_ok {v : Word} (hrd : ¬ IsStackPointer s rd) (h : s.loadWord .read (s.reg .sp) = .ok v) :
    exec (.pop rd) s = .next (((s.setReg .sp (s.reg .sp + 2#16)).setReg rd v).advance 2#16) := by
  simp only [exec, execPop, s.namesSp_iff, hrd, if_false, h]

end PushPop

/-! ## RETI -/

/-- RETI is trap return, but for the PrivViolation that RETI_USER may choose in user mode (92_eei_decisions D20; log
19). -/
theorem exec_reti_cases (s : State) :
    (s.flag.p = false ∧ exec .reti s = s.takeFault .privViolation 2#16) ∨ exec .reti s = s.trapReturn := by
  simp only [exec, execReti]
  split
  · next hu =>
    obtain ⟨hp, -⟩ : s.flag.p = false ∧ Config.retiUserTraps = true := by simpa using hu
    exact .inl ⟨hp, rfl⟩
  · exact .inr rfl

/-- What trap return does where both words of the frame can be read: FLAG and PC are taken from them, the stack pointer `p`
that SP names is four more, and nothing else changes (60_exceptions R211). -/
theorem State.trapReturn_spec {s : State} {p : PReg} {f v : Word} (hp : bank s.flag.p .sp = p)
    (hf : s.loadWord .read (s.regs.get p) = .ok f) (hv : s.loadWord .read (s.regs.get p + 2#16) = .ok v) :
    ∃ t, s.trapReturn = .next t ∧ t.flag = s.retiFlags f ∧ t.pc = v ∧ t.regs.get p = s.regs.get p + 4#16 ∧
      RegsSameBut s t [p] ∧ MemSame s t ∧ DevicesSame s t := by
  subst hp
  rw [← State.reg_eq] at hf hv
  have hpop : s.popFrame = .ok (f, v) := by simp only [State.popFrame, hf, hv]
  have hret : s.trapReturn = .next (((s.setReg .sp (s.reg .sp + 4#16)).setFlags (s.retiFlags f)).setPc v) := by
    simp only [State.trapReturn, hpop]
  obtain ⟨hregs, -, hmem, hdevices⟩ :=
    (WritesOnly.refl s [bank s.flag.p .sp]).setReg (List.mem_singleton_self _) (s.reg .sp + 4#16)
  exact ⟨_, hret, rfl, rfl, State.reg_setReg_same .., hregs, hmem, hdevices⟩

/-! ## The statements -/

/-- Settles O40: the push, and then PC. -/
theorem pushStoresRegister : Obligations.PushStoresRegister := by
  intro s rd p hrd hc hw hw'
  obtain ⟨t, hpush, hsp, hword, hpc, hregs, hmem, hflag, hdevices⟩ := State.pushWord_spec (s.reg rd) hc hw hw'
  exact ⟨_, exec_push_done hrd hpush, hsp, hword, hregs, hmem, hflag, hdevices, congrArg (· + 2#16) hpc⟩

/-- Settles O41: SP and Rd are stored apart, so that each keeps what POP writes to it. -/
theorem popLoadsRegister : Obligations.PopLoadsRegister := by
  intro s rd v hrd hload
  have hwrites := ((WritesOnly.refl s [bank s.flag.p .sp, bank s.flag.p rd]).setReg (r := .sp) (by simp)
    (s.reg .sp + 2#16)).setReg (r := rd) (by simp) v
  have hsp : ((s.setReg .sp (s.reg .sp + 2#16)).setReg rd v).reg .sp = s.reg .sp + 2#16 :=
    (State.reg_sp_setReg (s := s.setReg .sp _) hrd v).trans (State.reg_setReg_same ..)
  exact ⟨_, exec_pop_ok hrd hload, State.reg_setReg_same .., hsp, hwrites, ⟨rfl, rfl, rfl, rfl⟩, rfl⟩

/-- Settles O42: POP loads the word that PUSH stored, and the SP that it writes is the one before PUSH. -/
theorem pushThenPop : Obligations.PushThenPop := by
  intro s r q hr hq hm he hw
  have he' : isOdd (s.reg .sp - 2#16) = false := (isOdd_sub_two _).trans he
  have hc : s.check .write false (s.reg .sp - 2#16) = .ok (s.reg .sp - 2#16) := by simp [State.check_mmuOff hm, he']
  obtain ⟨t, hpush, hsp, hword, hpushed, -, hflag, ⟨hmmu, -⟩, -⟩ :=
    pushStoresRegister s r _ hr hc hw (writable_succ he' hw)
  have hload : t.loadWord .read (t.reg .sp) = .ok (s.reg r) := by
    rw [hsp, State.loadWord_mmuOff (hmmu.trans hm) .read he', hword]
  have hq' : ¬ IsStackPointer t q := by rwa [IsStackPointer, hflag]
  obtain ⟨u, hpop, hreg, husp, ⟨hpopped, ⟨-, hp, -⟩, -⟩, -⟩ := popLoadsRegister t q _ hq' hload
  rw [hflag] at hpopped hp
  rw [hsp, BitVec.sub_add_cancel] at husp
  refine ⟨t, u, hpush, hpop, hreg, husp, fun k hk => ?_⟩
  by_cases hksp : k = bank s.flag.p .sp
  · rwa [hksp, ← State.reg_eq, ← hp, ← State.reg_eq]
  · have hkq : k ≠ bank s.flag.p q := by simpa using hk
    exact (hpopped k (by simp [hksp, hkq])).trans (hpushed k (by simpa using hksp))

/-- Settles O44: in privileged mode RETI is trap return on SSP, and FLAG is the popped word without its unused bits. -/
theorem retiRestoresPsw : Obligations.RetiRestoresPsw := by
  intro s f v hp hf hv
  have hbank : bank s.flag.p .sp = .ssp := by rw [hp]; rfl
  obtain ⟨t, hret, hflag, hframe⟩ := State.trapReturn_spec hbank hf hv
  have hword : t.flag.toWord = f &&& 0x00EF#16 := by rw [hflag, State.retiFlags, if_pos hp, Flags.toWord_ofWord]
  rcases exec_reti_cases s with ⟨hu, -⟩ | hexec
  · exact absurd (hp.symm.trans hu) nofun
  · exact ⟨t, hexec.trans hret, hword, hframe⟩

/-- Settles O45: in user mode RETI is trap return on USP, or the trap that RETI_USER chooses. -/
theorem retiInUserMode : Obligations.RetiInUserMode := by
  intro s f v hp hf hv hready
  rcases exec_reti_cases s with ⟨-, hexec⟩ | hexec
  · obtain ⟨spc, t, hspc, ht, htaken⟩ := State.takeFault_taken (x := .privViolation) hready
    exact ⟨t, hexec.trans ht, .inr ⟨spc, hspc, htaken⟩⟩
  · have hbank : bank s.flag.p .sp = .usp := by rw [hp]; rfl
    obtain ⟨t, hret, -, hframe⟩ := State.trapReturn_spec hbank hf hv
    exact ⟨t, hexec.trans hret, .inl hframe⟩

/-- Settles O43: RET writes SP and PC alone. -/
theorem retPopsPc : Obligations.RetPopsPc := by
  intro s v hload
  have hwrites := (WritesOnly.refl s [bank s.flag.p .sp]).setReg (List.mem_singleton_self _) (s.reg .sp + 2#16)
  exact ⟨_, exec_ret_ok hload, rfl, State.reg_setReg_same .., hwrites, ⟨rfl, rfl, rfl, rfl⟩⟩

end Sys2Proof.Machine
end

section
/-! PROOFS. EI, DI and HALT where they are allowed and where they are denied; SVC, and RETI after a trap entry. -/

namespace Sys2Proof.Machine

/-! ## EI, DI and HALT -/

section Privileged

variable {s : State} {x : PrivOp}

/-- A privileged instruction is denied in user mode alone, where PRIV_SET holds it (47_system R196; log 6). -/
theorem State.denied_iff : s.denied x = true ↔ s.flag.p = false ∧ Config.privSet x = true := by
  simp [State.denied]

/-- A privileged instruction that is not denied has its effect, and PC moves on. -/
theorem State.privileged_allowed (effect : State) (h : s.flag.p = true ∨ Config.privSet x = false) :
    s.privileged x effect = .next (effect.advance 2#16) := by
  refine if_neg fun hdenied => ?_
  obtain ⟨huser, hpriv⟩ := State.denied_iff.mp hdenied
  rcases h with hp | hopen
  · exact Bool.false_ne_true (huser.symm.trans hp)
  · exact Bool.false_ne_true (hopen.symm.trans hpriv)

/-- A privileged instruction that is denied has no effect but the fault (47_system R196; log 11). -/
theorem State.privileged_denied (effect : State) (hp : s.flag.p = false) (hpriv : Config.privSet x = true) :
    s.privileged x effect = s.takeFault .privViolation 2#16 :=
  if_pos (State.denied_iff.mpr ⟨hp, hpriv⟩)

/-- What a privileged instruction comes to in user mode: PRIV_SET decides between PrivViolation and the effect (47_system
R196; log 6). -/
theorem State.privileged_user (effect : State) (hp : s.flag.p = false)
    (hready : ∀ spc, SavedPc s 2#16 spc → TrapReady s 13#4 spc) :
    (Config.privSet x = true ∧
        ∃ spc t, SavedPc s 2#16 spc ∧ s.privileged x effect = .next t ∧ TrapTaken s t 13#4 spc) ∨
      (Config.privSet x = false ∧ s.privileged x effect = .next (effect.advance 2#16)) := by
  cases hpriv : Config.privSet x with
  | true =>
    obtain ⟨spc, t, hspc, ht, htaken⟩ := State.takeFault_taken (x := .privViolation) hready
    exact .inl ⟨rfl, spc, t, hspc, (State.privileged_denied effect hp hpriv).trans ht, htaken⟩
  | false => exact .inr ⟨rfl, State.privileged_allowed effect (.inr hpriv)⟩

end Privileged

/-- A halted machine stays as it is (47_system R195; log 34). -/
theorem step_of_halted {s : State} (h : s.halted = true) : step s = .next s := if_pos h

/-! ## RETI after a trap entry -/

/-- RETI undoes a trap entry made with the MMU off and SSP even: it continues at the saved PC, with FLAG and every register
as before (60_exceptions R208, R211). -/
theorem TrapTaken.exec_reti {s t : State} {n : BitVec 4} {spc : Word} (h : TrapTaken s t n spc)
    (hm : s.mmuEn = false) (he : isOdd s.regs.ssp = false) :
    ∃ u, exec .reti t = .next u ∧ u.pc = spc ∧ u.flag = s.flag ∧ u.regs = s.regs := by
  obtain ⟨hpcWord, hflagWord, hssp, hp, -, -, -, -, hsaved, -, ⟨hmmu, -⟩⟩ := h
  have hm' : t.mmuEn = false := hmmu.trans hm
  have hf : t.loadWord .read t.regs.ssp = .ok s.flag.toWord := by
    rw [hssp, State.loadWord_mmuOff hm' .read ((isOdd_sub_four _).trans he), hflagWord]
  have hv : t.loadWord .read (t.regs.ssp + 2#16) = .ok spc := by
    have haddr : s.regs.ssp - 4#16 + 2#16 = s.regs.ssp - 2#16 := by bv_omega
    rw [hssp, haddr, State.loadWord_mmuOff hm' .read ((isOdd_sub_two _).trans he), hpcWord]
  obtain ⟨u, hreti, hword, hpc, hssp', hkept, -⟩ := retiRestoresPsw t _ _ hp hf hv
  refine ⟨u, hreti, hpc, ?flag, Regs.eq_of_get fun q => ?regs⟩
  case flag =>
    rw [← Flags.ofWord_toWord u.flag, hword, ← Flags.toWord_ofWord, Flags.ofWord_toWord, Flags.ofWord_toWord]
  case regs =>
    by_cases hq : q ∈ [PReg.ssp]
    · obtain rfl := List.mem_singleton.mp hq
      rw [Regs.get_ssp, Regs.get_ssp, hssp', hssp, BitVec.sub_add_cancel]
    · exact (hkept q hq).trans (hsaved q hq)

/-! ## The statements -/

/-- Settles O48: each of the three is the common frame of a privileged instruction around its effect. -/
theorem privilegedInUserMode : Obligations.PrivilegedInUserMode := by
  intro s hp hready
  refine ⟨?ei, ?di, ?halt⟩
  case ei => exact State.privileged_user (s.setFlags { s.flag with e := true }) hp hready
  case di => exact State.privileged_user (s.setFlags { s.flag with e := false }) hp hready
  case halt => exact State.privileged_user { s with halted := true } hp hready

/-- Settles O49: SVC is trap entry with the next address saved. -/
theorem svcEntersTrap : Obligations.SvcEntersTrap :=
  fun _ hready => State.trapEntry_taken hready

/-- Settles O50: RETI undoes the trap entry of SVC, which saved the next address. -/
theorem svcThenReti : Obligations.SvcThenReti := by
  intro s hready
  obtain ⟨t, hsvc, htaken⟩ := svcEntersTrap s hready
  obtain ⟨hm, he, -⟩ := hready
  obtain ⟨u, hreti, hrestored⟩ := htaken.exec_reti hm he
  exact ⟨t, u, hsvc, hreti, hrestored⟩

/-- Settles O46: in privileged mode neither is denied. -/
theorem eiDiWriteE : Obligations.EiDiWriteE :=
  fun _ hp => ⟨State.privileged_allowed _ (.inl hp), State.privileged_allowed _ (.inl hp)⟩

/-- Settles O47: in privileged mode HALT is not denied, and the state that it leaves is halted. -/
theorem haltStops : Obligations.HaltStops :=
  fun s hp => ⟨_, State.privileged_allowed { s with halted := true } (.inl hp), rfl, step_of_halted rfl⟩

end Sys2Proof.Machine
end

section
/-! PROOFS. Device interrupts: what the devices do between instructions and how a request is accepted; who leaves
privileged mode and what keeps SSP; the reset state. -/

namespace Sys2Proof.Machine

/-! ## The devices between instructions -/

section Devices

variable (s : State)

/-- The lowest bit of a word built up bit by bit, and the bits above it. -/
theorem getLsbD_append_ofBool {n : Nat} (x : BitVec n) (b : Bool) (k : Nat) :
    (x ++ BitVec.ofBool b).getLsbD k = if k = 0 then b else x.getLsbD (k - 1) :=
  BitVec.getLsbD_concat x b k

/-- The enable bit of each source, by its vector (60_exceptions R203). -/
theorem State.irqEnabled_getLsbD :
    s.irqEnabled.getLsbD 0 = timerEnabled s.out.timer0Ctrl ∧ s.irqEnabled.getLsbD 1 = timerEnabled s.out.timer1Ctrl ∧
      s.irqEnabled.getLsbD 2 = s.out.rn4020Ctrl.r ∧ s.irqEnabled.getLsbD 3 = s.out.rn4020Ctrl.t ∧
      s.irqEnabled.getLsbD 4 = s.out.ft232rlCtrl.r ∧ s.irqEnabled.getLsbD 5 = s.out.ft232rlCtrl.t ∧
      s.irqEnabled.getLsbD 6 = s.out.tecCtrl.r ∧ s.irqEnabled.getLsbD 7 = s.out.tecCtrl.t ∧
      s.irqEnabled.getLsbD 8 = s.out.usdCtrl.getLsbD 3 ∧ s.irqEnabled.getLsbD 9 = true := by
  simp only [State.irqEnabled, getLsbD_append_ofBool]
  simp

/-- The requests after a boundary: those that were up, and new ones of enabled sources (60_exceptions R204, R206). -/
theorem State.boundary_pending_getLsbD (n : Nat) :
    s.boundary.pending.getLsbD n =
      (s.pending.getLsbD n || ((Config.deviceRequests s.tick).getLsbD n && s.irqEnabled.getLsbD n)) := by
  obtain ⟨m, usd, hb, -⟩ := s.boundary_frame
  simp [hb]

end Devices

/-- Without a uSD READ in flight the devices change no byte of memory (60_exceptions R229). -/
theorem State.boundary_memSame {s : State} (h : ∀ x, s.usd = some x → x.toMemory = false) : MemSame s s.boundary := by
  obtain ⟨m, usd, hb, -, -, hm⟩ := s.boundary_frame
  intro a
  exact State.byteAt_congr (by rw [hb]; exact hm h) a

/-- Settles O7: what the devices leave alone, by `State.boundary_frame`; the requests and their enable bits. -/
theorem boundaryOnlyDevices : Obligations.BoundaryOnlyDevices := by
  intro s
  obtain ⟨m, usd, hb, -⟩ := s.boundary_frame
  refine ⟨s.boundary_regs, ?pc, s.boundary_flag, ?mmuEn, ?mmuBase, ?mmuLimit, ?halted, ?mode, ?out, ?ioLog,
    State.boundary_memSame, fun n hup => ?stays, fun n hup => ?enabled, s.irqEnabled_getLsbD⟩
  case pc | mmuEn | mmuBase | mmuLimit | halted | mode | out | ioLog => rw [hb]; rfl
  case stays => rw [s.boundary_pending_getLsbD, hup, Bool.true_or]
  case enabled =>
    rw [s.boundary_pending_getLsbD, Bool.or_eq_true, Bool.and_eq_true] at hup
    exact hup.imp_right And.right

/-! ## Acceptance -/

/-- With E set and a request up, the step is the acceptance of an interrupt (60_exceptions R206). -/
theorem step_of_request {s : State} (hrun : s.halted = false) (he : s.flag.e = true) (hp : s.pending ≠ 0#10) :
    step s = atBoundary s.acceptInterrupt := by
  simp [step, hrun, State.accepts, he, hp]

/-- Acceptance where trap entry is ready: trap entry for the source taken, from the state with its request settled. -/
theorem State.acceptInterrupt_taken {s : State} (h : TrapReady s (BitVec.ofNat 4 s.irqTaken) s.pc) :
    ∃ t, s.acceptInterrupt = .next t ∧
      TrapTaken (s.setPending s.irqCleared) t (BitVec.ofNat 4 s.irqTaken) s.pc :=
  State.trapEntry_taken (s := (s.setPending s.irqCleared).nextDraw) h

/-- Settles O8: the source taken is one of those pending, and accepting it clears no other request. -/
theorem interruptIsAccepted : Obligations.InterruptIsAccepted := by
  intro s hrun he hp hready
  obtain ⟨hlt, hpending⟩ := State.irqTaken_spec hp
  obtain ⟨t, ht, htaken⟩ := State.acceptInterrupt_taken (hready s.irqTaken hlt hpending)
  refine ⟨s.irqTaken, t, s.irqCleared, hlt, hpending, fun _ => s.irqCleared_other, ?_, htaken⟩
  rw [step_of_request hrun he hp, ht]
  rfl

/-! ## Steps that end in user mode -/

/-- Where RETI pops a FLAG, it is the word at SP (46_stack_return R189). -/
theorem State.popFrame_flag {s : State} {f a : Word} (h : s.popFrame = .ok (f, a)) :
    s.loadWord .read (s.reg .sp) = .ok f := by
  rw [State.popFrame] at h
  split at h
  · next hf _ => cases h; exact hf
  · cases h
  · cases h

/-- Trap entry ends in privileged mode (60_exceptions R208), and so not in user mode. -/
theorem State.trapEntry_not_user {s t : State} {n : BitVec 4} {spc : Word} (h : s.trapEntry n spc = .next t) :
    ¬ t.flag.p = false := by
  obtain ⟨-, hp, -⟩ := State.trapEntry_entered h
  simp [hp]

theorem Traps.not_user {s t : State} (h : Traps s t) : ¬ t.flag.p = false := by
  obtain ⟨_, _, _, -, ht⟩ := h
  exact State.trapEntry_not_user ht

/-- Everything a step that ends in user mode can do: it began there and kept SSP, or it is the fetched RETI, which loads FLAG
from the word at SP and, in user mode, moves USP alone. -/
theorem step_to_user {s t : State} (h : step s = .next t) (ht : t.flag.p = false) :
    (s.flag.p = false ∧ t.regs.ssp = s.regs.ssp) ∨
      (s.fetch = .instr .reti ∧ ∃ f, s.loadWord .read (s.reg .sp) = .ok f ∧ t.flag = s.retiFlags f ∧
        (s.flag.p = false → t.regs.ssp = s.regs.ssp)) := by
  obtain rfl | ⟨u, rfl, hu⟩ := step_inv h
  · exact .inl ⟨ht, rfl⟩
  rw [State.boundary_flag] at ht ⊢
  rw [State.boundary_regs]
  obtain htrap | ⟨i, hfetch, heffect⟩ := hu
  · exact absurd ht htrap.not_user
  cases heffect with
  | ordinary hord =>
    have ⟨_, hp, _⟩ := hord.mode
    have hs : s.flag.p = false := hp.symm.trans ht
    exact .inl ⟨hs, hord.ssp hs⟩
  | traps htrap => exact absurd ht htrap.not_user
  | ei | di => exact .inl ⟨ht, rfl⟩
  | reti hpop =>
    have hsp := (Ordinary.refl s).setReg .sp (s.reg .sp + 4#16)
    exact .inr ⟨hfetch, _, State.popFrame_flag hpop, rfl, hsp.ssp⟩
  | retiFaults hfault =>
    obtain ⟨_, -, hentry⟩ := State.takeFault_inv hfault
    exact absurd ht (State.trapEntry_not_user hentry)

/-- Settles O58: only the fetched RETI goes from privileged to user mode, and it takes P from bit 6 of the word at SSP. -/
theorem onlyRetiLeavesPrivilegedMode : Obligations.OnlyRetiLeavesPrivilegedMode := by
  intro s t h hs ht
  obtain ⟨huser, -⟩ | ⟨hfetch, f, hload, hflag, -⟩ := step_to_user h ht
  · exact absurd (hs.symm.trans huser) nofun
  · have hsp : s.reg .sp = s.regs.ssp := by rw [State.reg, hs]; rfl
    have hword : t.flag = Flags.ofWord f := by rw [hflag, State.retiFlags, if_pos hs]
    rw [hword] at ht
    exact ⟨hfetch, f, hsp ▸ hload, ht⟩

/-- Settles O59: of the steps that end in user mode, RETI too writes the stack pointer of the mode it began in. -/
theorem userModeKeepsSsp : Obligations.UserModeKeepsSsp := by
  intro s t h hs ht
  obtain ⟨-, hkept⟩ | ⟨-, _, -, -, hkept⟩ := step_to_user h ht
  · exact hkept
  · exact hkept hs

/-! ## Reset -/

/-- Settles O11, register by register; no OUT has written RN4020-Cmd, so it reads as its initial value. -/
theorem resetState : Obligations.ResetState := by
  have hcmd : State.reset.ioByte 0x2D#8 = State.reset.rn4020CmdByte := rfl
  refine ⟨rfl, by decide, rfl, rfl, rfl, hcmd.trans ?_⟩
  exact State.rn4020CmdByte_unwritten resetSatisfiesInvariant rfl

end Sys2Proof.Machine
end
